-- ==== Sys2Proof/Word.lean ====
section
/-! DEFINITION. The word types of RC5CORE and the five word widths (00_scope.md R8, R9; 20_memory.md R50). -/

namespace Sys2Proof

/-- A key byte (10_state.md R32). -/
abbrev Byte := BitVec 8

/-- What one bus access carries (20_memory.md R50: 32-bit data). -/
abbrev BusWord := BitVec 32

/-- A word register or array slot: WMAX = 128 bits (00_scope.md R13). -/
abbrev Slot := BitVec 128

/-- The legal word widths (R8): "the legal widths are 8, 16, 32, 64 and 128 bits". -/
inductive Width
  | w8 | w16 | w32 | w64 | w128
deriving DecidableEq, Repr

/-- The number w of bits of a word (R8). -/
def Width.bits : Width → Nat
  | .w8 => 8
  | .w16 => 16
  | .w32 => 32
  | .w64 => 64
  | .w128 => 128

/-- The number `u = w / 8` of bytes of a word (R9). -/
def Width.bytes (w : Width) : Nat := w.bits / 8

/-- A word of width w: an unsigned integer below `2^w` (R15, 41_word_arithmetic.md R98). -/
abbrev Word (w : Width) := BitVec w.bits

end Sys2Proof
end

