-- ==== Sys2Proof/Config.lean ====
section
/-! DEFINITION. What an implementation fixes (00_scope.md R13), the block's constants, and the free values. -/

namespace Sys2Proof

/-- The implementation parameters of R13 that a rule depends on.
LAT is not one of them: "no rule of this spec depends on it" (70_reset_and_hazards.md R181). -/
structure Config where
  /-- IMPL_WIDTHS: bit k is 1 exactly when width `8 << k` is implemented (10_state.md R21). -/
  implWidths : BitVec 5
  /-- BASE in units of 16 KiB: BASE is OPEN and 16 KiB aligned (R13, 20_memory.md R51). -/
  basePage : Nat
deriving DecidableEq, Repr

/-- The size of the register aperture in bytes (20_memory.md R51). -/
def Config.apertureBytes : Nat := 0x4000

/-- BASE: the host address of offset 0 (20_memory.md R51). -/
def Config.base (c : Config) : Nat := Config.apertureBytes * c.basePage

/-- RMAX (R13): the largest legal round count. -/
def Config.rmax : Nat := 255

/-- BMAX (R13): the largest legal key length in bytes. -/
def Config.bmax : Nat := 255

/-- The ID register's constant (10_state.md R20). -/
def Config.idWord : BusWord := 0x52433501

/-- The hardware of the spec: all five widths (R13). DESIGN CHOICE (log entry 3): BASE, which R13 leaves OPEN, is page 0. -/
def Config.rc5core : Config := { implWidths := 0b11111, basePage := 0 }

/-- Free value (log entry 4): the 32-bit draw of a busy-window read of a pending destination (20_memory.md R66), by draw number. -/
opaque Config.freeRead : Nat → BusWord

/-- Free value (log entry 5): the 128-bit draw of one slot of S or L at a reset (70_reset_and_hazards.md R172), by draw number. -/
opaque Config.freeSlot : Nat → Slot

end Sys2Proof
end

