-- ==== Sys2Proof/Syntax.lean ====
section
/-! DEFINITION. The command word (30_encoding.md R74), the twelve commands (R76), and the host's accesses (20_memory.md R50). -/

namespace Sys2Proof

/-- A command word: OP in bits [7:0], RSV in bits [31:8] (R74). -/
structure CommandWord where
  op : BitVec 8
  rsv : BitVec 24
deriving DecidableEq, Repr

/-- The commands of R76. "Commands take no operands in the command word" (R84). -/
inductive Instr
  /-- R93 -/
  | nop
  /-- R120 -/
  | setkey
  /-- R139 -/
  | encrypt
  /-- R140 -/
  | decrypt
  /-- R136 -/
  | magicp
  /-- R137 -/
  | magicq
  /-- R113 -/
  | packkey
  /-- R108 -/
  | add
  /-- R109 -/
  | sub
  /-- R110 -/
  | rotl
  /-- R111 -/
  | rotr
  /-- R112 -/
  | xor
deriving DecidableEq, Repr

/-- The size of a bus access in bytes: 1, 2 or 4 (20_memory.md R53: "a 1- or 2-byte access"). -/
inductive AccessSize
  | one | two | four
deriving DecidableEq, Repr

/-- What a bus access asks for. -/
inductive AccessKind
  | read
  | write (data : BusWord)
deriving DecidableEq, Repr

/-- One bus access of a host at a host address (R50, R51). -/
structure Access where
  addr : Nat
  size : AccessSize
  kind : AccessKind
deriving DecidableEq, Repr

end Sys2Proof
end

