-- ==== Sys2Proof/WellFormed.lean ====
section
/-! DEFINITION. What is well formed: a command word (30_encoding.md R75, R77) and a bus access (20_memory.md R53).
A command itself has no operand field (R84), so every term of `Instr` is well formed. -/

namespace Sys2Proof

/-- R74: "reserved, must be 0". -/
def CommandWord.rsvClear (c : CommandWord) : Bool := c.rsv == 0

/-- R77: OP is none of "0x07 to 0x0F and 0x15 to 0xFF". -/
def CommandWord.opAssigned (c : CommandWord) : Bool :=
  c.op.toNat < 0x07 || (0x10 ≤ c.op.toNat && c.op.toNat < 0x15)

/-- A legal command word (R75). -/
def CommandWord.wf (c : CommandWord) : Bool := c.rsvClear && c.opAssigned

/-- R53: "size 4". -/
def Access.sizeLegal (a : Access) : Bool := a.size == .four

/-- R53: `off mod 4 = 0`, with `off = addr - BASE` (R51). -/
def Access.aligned (c : Config) (a : Access) : Bool := (a.addr - c.base) % 4 == 0

/-- R51: the access is in the aperture, BASE to BASE + 0x3FFF. -/
def Access.inAperture (c : Config) (a : Access) : Bool :=
  c.base ≤ a.addr && a.addr < c.base + Config.apertureBytes

/-- A legal access in the aperture (R53). -/
def Access.wf (c : Config) (a : Access) : Bool :=
  a.inAperture c && a.sizeLegal && a.aligned c

end Sys2Proof
end

