-- ==== Sys2Proof/Decode.lean ====
section
/-! DEFINITION. Decoding and encoding of command words (30_encoding.md R74 to R77, 20_memory.md R57). -/

namespace Sys2Proof

/-- Why a word is no command: "RSV ≠ 0, or OP is not one of the opcodes of rule R76" (R75); and, for the byte form, that
it is not "exactly this one 32-bit word" (R74). -/
inductive DecodeError
  | reservedBits
  | unassignedOpcode
  | notOneWord
deriving DecidableEq, Repr

/-- The fields of a 32-bit value written to CMD (R74). -/
def CommandWord.ofWord (v : BusWord) : CommandWord :=
  { op := v.extractLsb' 0 8, rsv := v.extractLsb' 8 24 }

/-- The 32-bit value with these fields (R74). -/
def CommandWord.toWord (c : CommandWord) : BusWord := c.rsv ++ c.op

/-- The opcode map (R76). -/
def opcodeCommand : Nat → Option Instr
  | 0x00 => some .nop
  | 0x01 => some .setkey
  | 0x02 => some .encrypt
  | 0x03 => some .decrypt
  | 0x04 => some .magicp
  | 0x05 => some .magicq
  | 0x06 => some .packkey
  | 0x10 => some .add
  | 0x11 => some .sub
  | 0x12 => some .rotl
  | 0x13 => some .rotr
  | 0x14 => some .xor
  | _ => none

/-- Decoding of a latched command word (R75). It depends on the word alone. -/
def decode (c : CommandWord) : Except DecodeError Instr :=
  if c.rsv = 0 then
    match opcodeCommand c.op.toNat with
    | some i => .ok i
    | none => .error .unassignedOpcode
  else .error .reservedBits

/-- Decoding of the 32-bit value written to CMD. -/
def decodeWord (v : BusWord) : Except DecodeError Instr := decode (CommandWord.ofWord v)

/-- A 32-bit value from its four bytes in increasing offset order: the bus is little-endian (20_memory.md R57). -/
def busWordOfBytes (b0 b1 b2 b3 : Byte) : BusWord := b3 ++ b2 ++ b1 ++ b0

/-- The byte k of a 32-bit value, "data bits [8k+7:8k]" (20_memory.md R57). -/
def byteOfBusWord (v : BusWord) (k : Nat) : Byte := v.extractLsb' (8 * k) 8

/-- Decoding of the bytes of a command word in increasing offset order: exactly four of them (R74). -/
def decodeBytes : List Byte → Except DecodeError Instr
  | [b0, b1, b2, b3] => decodeWord (busWordOfBytes b0 b1 b2 b3)
  | _ => .error .notOneWord

/-- The 32-bit command word of a command (R76). -/
def encode : Instr → BusWord
  | .nop => 0x00000000
  | .setkey => 0x00000001
  | .encrypt => 0x00000002
  | .decrypt => 0x00000003
  | .magicp => 0x00000004
  | .magicq => 0x00000005
  | .packkey => 0x00000006
  | .add => 0x00000010
  | .sub => 0x00000011
  | .rotl => 0x00000012
  | .rotr => 0x00000013
  | .xor => 0x00000014

/-- The bytes of a command word in increasing offset order (20_memory.md R57). -/
def encodeBytes (i : Instr) : List Byte :=
  [byteOfBusWord (encode i) 0, byteOfBusWord (encode i) 1, byteOfBusWord (encode i) 2, byteOfBusWord (encode i) 3]

/-- The 32-bit value of a table row of `nbits` bits; the bits above `nbits` are 0. -/
def tableWord (nbits w : Nat) : BusWord := BitVec.ofNat 32 (w % 2 ^ nbits)

/-- What the decoder reads from a word numbered as spec/opcode_table.json numbers it, laid out as the bus lays out its bytes.
"There is no other instruction length" (R74), so a row of more than 32 bits is no command. -/
def decodeTableWord (nbits w : Nat) : Option Instr :=
  let v := tableWord nbits w
  match decodeBytes [byteOfBusWord v 0, byteOfBusWord v 1, byteOfBusWord v 2, byteOfBusWord v 3] with
  | .ok i => if nbits ≤ 32 then some i else none
  | .error _ => none

end Sys2Proof
end

