-- ==== Sys2Proof/Machine/State.lean ====
section
/-! DEFINITION. The architectural state of RC5CORE (10_state.md), its reset, and why a step can stop.
INVENTORY.md lists every field with its rule and reset value. -/

namespace Sys2Proof.Machine

/-- The error kinds a command can end with (60_exceptions.md R151 to R156). -/
inductive CmdError
  | unsupportedWidth
  | invalidParameters
  | lengthError
  | mismatchedWidth
  | invalidExpandedKey
  | illegalCommand
deriving DecidableEq, Repr

/-- The engine's hidden state ENG (10_state.md R35, 40_command_control.md R87): IDLE, or BUSY with the latched command word. -/
inductive Eng
  | idle
  | busy (word : CommandWord)
deriving DecidableEq, Repr

/-- One turn of one agent (00_scope.md R14): a host access, the engine's completion step, or the reset input rst_n at 0
(70_reset_and_hazards.md R170). The engine's turn does nothing while ENG is IDLE. -/
inductive Turn
  | host (a : Access)
  | engine
  | hardReset
deriving DecidableEq, Repr

/-- What the block drives on the bus for one access (20_memory.md R50): read data with OKAY, OKAY for a write, or ERROR with
its read data (R53). -/
inductive Response
  | readOkay (data : BusWord)
  | writeOkay
  | error (data : BusWord)
deriving DecidableEq, Repr

/-- The five word registers (10_state.md R40). -/
inductive WordReg
  | a | b | x | y | z
deriving DecidableEq, Repr

/-- What an aligned offset of the aperture names (20_memory.md R55). -/
inductive Reg
  | id | cap | ctrl | status | cmd | cfg | keylen | slen | llen
  | lane (r : WordReg) (l : Fin 4)
  | key (k : Fin 64)
  | lSlot (j : Fin 256) (l : Fin 4)
  | sSlot (i : Fin 512) (l : Fin 4)
  | reserved
deriving DecidableEq, Repr

/-- The machine's state. Reserved bits of a register hold nothing (20_memory.md R61), so each register is its fields. -/
structure State where
  /-- The implementation parameters; no step changes them (00_scope.md R13). -/
  config : Config
  /-- CTRL.IE (10_state.md R22). -/
  ie : Bool
  /-- STATUS.DONE (10_state.md R23). STATUS.BUSY is `eng ≠ idle` (R35). -/
  done : Bool
  /-- STATUS.OVR (10_state.md R23). -/
  ovr : Bool
  /-- STATUS.ERRCODE (10_state.md R23). -/
  errcode : BitVec 4
  /-- CFG.W_SEL (10_state.md R24). -/
  wSel : BitVec 3
  /-- CFG.ROUNDS (10_state.md R24). -/
  rounds : BitVec 10
  /-- KEYLEN.B (10_state.md R25). -/
  keylen : BitVec 9
  /-- SLEN (10_state.md R26). -/
  slen : BitVec 10
  /-- LLEN (10_state.md R27). -/
  llen : BitVec 9
  /-- The block register A (10_state.md R29). -/
  a : Slot
  /-- The block register B (10_state.md R29). -/
  b : Slot
  /-- The operand register X (10_state.md R30). -/
  x : Slot
  /-- The operand register Y (10_state.md R30). -/
  y : Slot
  /-- The result register Z (10_state.md R31). -/
  z : Slot
  /-- KEY[0..255] (10_state.md R32). -/
  key : Vector Byte 256
  /-- S[0..511] (10_state.md R33). -/
  sArr : Vector Slot 512
  /-- L[0..255] (10_state.md R34). -/
  lArr : Vector Slot 256
  /-- ENG (10_state.md R35). -/
  eng : Eng
  /-- The model's own: how many free draws have been taken (log entry 4). -/
  draws : Nat
  /-- The model's own: the turns still to come, first one first (log entry 1). -/
  agenda : List Turn
  /-- The model's own: the response driven for the last access performed (log entry 6). -/
  busOut : Option Response
deriving DecidableEq, Repr

/-- Why the machine stops. -/
inductive Fault
  /-- Raised by a host access in the aperture that is not an aligned 4-byte access: the ERROR response, which "A model treats
  ... as a host-side fault of the host program" (20_memory.md R54). Safe: the block itself would go on unchanged (log entry 7). -/
  | busError
deriving DecidableEq, Repr

/-- Why a step is refused. -/
inductive Refusal
  /-- Raised by an arm of `exec` whose command has no meaning yet (none in this model). Safe: nothing is claimed of it. -/
  | notModelled (mnemonic : String)
deriving DecidableEq, Repr

/-- The state a reset leaves (70_reset_and_hazards.md R171, R172), for given parameters, first free draw, agenda and bus
response. The contents of S and L are free draws, one per slot (R172; log entry 5). -/
def State.resetFrom (c : Config) (draw : Nat) (agenda : List Turn) (busOut : Option Response) : State :=
  { config := c
    ie := false
    done := false
    ovr := false
    errcode := 0
    wSel := 2
    rounds := 12
    keylen := 16
    slen := 0
    llen := 0
    a := 0
    b := 0
    x := 0
    y := 0
    z := 0
    key := Vector.replicate 256 0
    sArr := Vector.ofFn fun i => Config.freeSlot (draw + i)
    lArr := Vector.ofFn fun j => Config.freeSlot (draw + 512 + j)
    eng := .idle
    draws := draw + 768
    agenda := agenda
    busOut := busOut }

/-- The machine right after reset: the hardware of the spec, no access performed yet, no turn to come (R171 to R173). -/
def State.reset : State := State.resetFrom Config.rc5core 0 [] none

end Sys2Proof.Machine
end

