-- ==== Sys2Proof/Machine/Operands.lean ====
section
/-! DEFINITION. Operand assembly: word domain (41_word_arithmetic.md R98), width, rounds and key length (40_command_control.md
R91, R92), lanes (20_memory.md R56), key bytes and slots. -/

namespace Sys2Proof.Machine

/-- `low_w(v) = v mod 2^w` (R98). -/
def lowW (w : Width) (v : Slot) : Word w := v.setWidth w.bits

/-- `zext_128(v)` (40_command_control.md R95). -/
def zextSlot {w : Width} (v : Word w) : Slot := v.setWidth 128

/-- `fits_w(v)`: `v < 2^w` (R98). -/
def fitsW (w : Width) (v : Slot) : Bool := v.toNat < 2 ^ w.bits

/-- The width W_SEL names: `8 << W_SEL` for 0..4, none for 5, 6, 7 (10_state.md R24). -/
def widthOfSel (ws : BitVec 3) : Option Width :=
  match ws.toNat with
  | 0 => some .w8
  | 1 => some .w16
  | 2 => some .w32
  | 3 => some .w64
  | 4 => some .w128
  | _ => none

/-- The CAP register (10_state.md R21): the implemented widths in [4:0], RMAX in [15:8], BMAX in [23:16]. -/
def capWord (c : Config) : BusWord :=
  BitVec.ofNat 8 0 ++ BitVec.ofNat 8 Config.bmax ++ BitVec.ofNat 8 Config.rmax ++ BitVec.ofNat 3 0 ++ c.implWidths

/-- `WIDTH()` (R91). -/
def readWidth (s : State) : Except CmdError Width :=
  match widthOfSel s.wSel with
  | none => .error .unsupportedWidth
  | some w => if (capWord s.config).getLsbD s.wSel.toNat then .ok w else .error .unsupportedWidth

/-- `ROUNDS()` (R92). -/
def readRounds (s : State) : Except CmdError Nat :=
  if s.rounds.toNat > Config.rmax then .error .invalidParameters else .ok s.rounds.toNat

/-- `KEYBYTES()` (R92). -/
def readKeyLen (s : State) : Except CmdError Nat :=
  if s.keylen.toNat > Config.bmax then .error .invalidParameters else .ok s.keylen.toNat

/-- The secret key `KEY[0], ..., KEY[b-1]`, KEY[0] first (30_encoding.md R79). -/
def keyBytes (s : State) (b : Nat) : List Byte := s.key.toList.take b

/-- The slot S[i] as a command reads it; every index a command uses is below 512 (44_cipher_engine.md R141). -/
def slotS (s : State) (i : Nat) : Slot := s.sArr.toList.getD i 0

/-- Lane l of a 128-bit value: bits [32l+31:32l] (20_memory.md R56). -/
def getLane (v : Slot) (l : Nat) : BusWord := v.extractLsb' (32 * l) 32

/-- The 128-bit value with the bits of lane l replaced by d (20_memory.md R56). -/
def setLane (v : Slot) (l : Nat) (d : BusWord) : Slot :=
  (v &&& ~~~((BitVec.allOnes 32).setWidth 128 <<< (32 * l))) ||| (d.setWidth 128 <<< (32 * l))

/-- A word register's value. -/
def getWordReg (s : State) : WordReg → Slot
  | .a => s.a
  | .b => s.b
  | .x => s.x
  | .y => s.y
  | .z => s.z

/-- The four bytes of KEY register k, KEY[4k] lowest (20_memory.md R58). -/
def getKeyReg (s : State) (k : Nat) : BusWord :=
  busWordOfBytes (s.key.toList.getD (4 * k) 0) (s.key.toList.getD (4 * k + 1) 0) (s.key.toList.getD (4 * k + 2) 0)
    (s.key.toList.getD (4 * k + 3) 0)

/-- KEY with the four bytes of register k replaced by those of d (20_memory.md R58). -/
def setKeyReg (key : Vector Byte 256) (k : Fin 64) (d : BusWord) : Vector Byte 256 :=
  Vector.ofFn fun n => if n.val / 4 = k.val then byteOfBusWord d (n.val % 4) else key[n]

end Sys2Proof.Machine
end

