-- ==== Sys2Proof/Machine/Flags.lean ====
section
/-! DEFINITION. The STATUS register (10_state.md R23): its bits as the bus sees them, W1C, the error codes (60_exceptions.md
R151 to R157), and irq (R163). The block has no other flags. -/

namespace Sys2Proof.Machine

/-- The code of an error (R151 to R156). -/
def errorCode : CmdError → BitVec 4
  | .unsupportedWidth => 1
  | .invalidParameters => 2
  | .lengthError => 3
  | .mismatchedWidth => 4
  | .invalidExpandedKey => 5
  | .illegalCommand => 6

/-- STATUS.BUSY: 1 exactly when ENG ≠ IDLE (10_state.md R35). -/
def isBusy (s : State) : Bool :=
  match s.eng with
  | .idle => false
  | .busy _ => true

/-- STATUS as read: BUSY [0], DONE [1], OVR [2], ERRCODE [11:8], the rest 0 (10_state.md R23). -/
def statusWord (s : State) : BusWord :=
  BitVec.ofNat 20 0 ++ s.errcode ++ BitVec.ofNat 5 0 ++ BitVec.ofBool s.ovr ++ BitVec.ofBool s.done ++ BitVec.ofBool (isBusy s)

/-- A write of d to STATUS: `DONE <- DONE and not wdata[1]`; `OVR <- OVR and not wdata[2]` (10_state.md R23). -/
def writeStatus (s : State) (d : BusWord) : State :=
  { s with done := s.done && !d.getLsbD 1, ovr := s.ovr && !d.getLsbD 2 }

/-- CTRL as read: IE [0]; SRST and the reserved bits read 0 (10_state.md R22). -/
def ctrlWord (s : State) : BusWord := BitVec.ofNat 31 0 ++ BitVec.ofBool s.ie

/-- CFG as read: W_SEL [2:0], ROUNDS [17:8], the rest 0 (10_state.md R24). -/
def cfgWord (s : State) : BusWord := BitVec.ofNat 14 0 ++ s.rounds ++ BitVec.ofNat 5 0 ++ s.wSel

/-- `irq = CTRL.IE and STATUS.DONE` (60_exceptions.md R163, 10_state.md R38). -/
def irq (s : State) : Bool := s.ie && s.done

end Sys2Proof.Machine
end

