-- ==== Sys2Proof/Machine/Ops.lean ====
section
/-! DEFINITION. The shared operations: the word primitives (41_word_arithmetic.md R99 to R106), the command life cycle
(40_command_control.md R88, R89), the error outcome (60_exceptions.md R158), reset, and the writes into the arrays. -/

namespace Sys2Proof.Machine

/-! ### Word primitives -/

/-- `add_w(x, y) = (x + y) mod 2^w` (R99). -/
def addW {w : Width} (x y : Word w) : Word w := x + y

/-- `sub_w(x, y) = (x - y) mod 2^w` (R100). -/
def subW {w : Width} (x y : Word w) : Word w := x - y

/-- `rotl_w(x, amount)` on the low w bits of x; only `amount mod w` matters (R101). -/
def rotlW {w : Width} (x : Word w) (amount : Nat) : Word w :=
  let n := amount % w.bits
  (x <<< n) ||| (x >>> (w.bits - n))

/-- `rotr_w(x, amount)` on the low w bits of x; only `amount mod w` matters (R102). -/
def rotrW {w : Width} (x : Word w) (amount : Nat) : Word w :=
  let n := amount % w.bits
  (x >>> n) ||| (x <<< (w.bits - n))

/-- `xor_w(x, y)`: the bitwise exclusive-or (R103). -/
def xorW {w : Width} (x y : Word w) : Word w := x ^^^ y

/-- The sum of `bytes[k] * 2^(8*k)` over a byte sequence (R104). -/
def leNat : List Byte → Nat
  | [] => 0
  | c :: cs => c.toNat + 256 * leNat cs

/-- `bytes_to_words(bytes, w)` (R104): little-endian words of `w/8` bytes, or LengthError. -/
def bytesToWords (w : Width) (bytes : List Byte) : Except CmdError (List (Word w)) :=
  if bytes.length % w.bytes = 0 then
    .ok ((List.range (bytes.length / w.bytes)).map fun j =>
      BitVec.ofNat w.bits (leNat ((bytes.drop (j * w.bytes)).take w.bytes)))
  else .error .lengthError

/-- The number of padding bytes of a key of b bytes (R105). -/
def padBytes (w : Width) (b : Nat) : Nat := (w.bytes - b % w.bytes) % w.bytes

/-- `key_words(KEY, b, w)` of the key's b bytes (R105): one zero word when b = 0, else zero-padded and packed. -/
def keyWords (w : Width) (bytes : List Byte) : Except CmdError (List (Word w)) :=
  if bytes.length = 0 then .ok [0]
  else bytesToWords w (bytes ++ List.replicate (padBytes w bytes.length) 0)

/-- `words_to_bytes(words, w)` (R106). No command performs it: it is the bus view of a word (20_memory.md R70). -/
def wordsToBytes {w : Width} (words : List (Word w)) : List Byte :=
  words.flatMap fun v => (List.range w.bytes).map fun k => v.extractLsb' (8 * k) 8

/-! ### Arrays -/

/-- An array whose first slots are the given words zero-extended, the others as before (40_command_control.md R95). -/
def overlay {w : Width} {n : Nat} (words : List (Word w)) (arr : Vector Slot n) : Vector Slot n :=
  Vector.ofFn fun i => if h : i.val < words.length then zextSlot words[i.val] else arr[i]

/-! ### The command life cycle -/

/-- Acceptance of a command word (R88): BUSY with the word latched, DONE and ERRCODE 0. -/
def accept (c : CommandWord) (s : State) : State := { s with eng := .busy c, done := false, errcode := 0 }

/-- The end of a completion step (R89): ENG IDLE, so BUSY 0, and DONE 1. -/
def finish (s : State) : State := { s with eng := .idle, done := true }

/-- The end of a command that fails with error e (60_exceptions.md R158): its code in ERRCODE, BUSY 0, DONE 1, nothing else. -/
def failWith (e : CmdError) (s : State) : State := finish { s with errcode := errorCode e }

/-- The completion step of a command whose rule, from state s, ends in `r`: every write of the rule performed, or an error (R89).
There is no trap to take and none to return from (60_exceptions.md R150, R161): this is the only way a command ends. -/
def complete (s : State) (r : Except CmdError State) : Host.Outcome State Fault Refusal :=
  match r with
  | .ok t => .next (finish t)
  | .error e => .next (failWith e s)

/-- A write to a locked register while BUSY = 1: not performed, `STATUS.OVR <- 1` (20_memory.md R65). -/
def overrun (s : State) : State := { s with ovr := true }

/-- Hard and soft reset (70_reset_and_hazards.md R170 to R172): every register at its reset value, ENG IDLE, a pending command
discarded, S and L fresh free draws. Not reset, because they are not the block's state: the parameters, the host's turns
still to come, the response of the last access. -/
def resetBlock (s : State) : State := State.resetFrom s.config s.draws s.agenda s.busOut

end Sys2Proof.Machine
end

