-- ==== Sys2Proof/Machine/Bus.lean ====
section
/-! DEFINITION. The host interface (20_memory.md): the register map, reads, writes, the busy window and bus errors. -/

namespace Sys2Proof.Machine

/-- The register map (R55, with R58 to R61): what the word at offset `off` names. -/
def regAt (off : Nat) : Reg :=
  if off < 0x40 then
    match off with
    | 0x00 => .id
    | 0x04 => .cap
    | 0x08 => .ctrl
    | 0x0C => .status
    | 0x10 => .cmd
    | 0x14 => .cfg
    | 0x18 => .keylen
    | 0x1C => .slen
    | 0x20 => .llen
    | _ => .reserved
  else if off < 0x50 then .lane .a (Fin.ofNat 4 (off / 4))
  else if off < 0x60 then .lane .b (Fin.ofNat 4 (off / 4))
  else if off < 0x70 then .lane .x (Fin.ofNat 4 (off / 4))
  else if off < 0x80 then .lane .y (Fin.ofNat 4 (off / 4))
  else if off < 0x90 then .lane .z (Fin.ofNat 4 (off / 4))
  else if off < 0x100 then .reserved
  else if off < 0x200 then .key (Fin.ofNat 64 ((off - 0x100) / 4))
  else if off < 0x1000 then .reserved
  else if off < 0x2000 then .lSlot (Fin.ofNat 256 ((off - 0x1000) / 16)) (Fin.ofNat 4 (off / 4))
  else if off < 0x4000 then .sSlot (Fin.ofNat 512 ((off - 0x2000) / 16)) (Fin.ofNat 4 (off / 4))
  else .reserved

/-- "Lock" of R55: the registers locked while BUSY (R65). -/
def locked : Reg → Bool
  | .cmd | .cfg | .keylen | .slen | .key _ | .sSlot _ _ => true
  | .lane .z _ => false
  | .lane _ _ => true
  | .id | .cap | .ctrl | .status | .llen | .lSlot _ _ | .reserved => false

/-- The destinations of a command: the "writes" column of 30_encoding.md R76. -/
def mayWrite (i : Instr) (r : Reg) : Bool :=
  match i with
  | .nop => false
  | .setkey =>
    match r with
    | .sSlot _ _ | .lSlot _ _ | .slen | .llen => true
    | _ => false
  | .packkey =>
    match r with
    | .lSlot _ _ | .llen => true
    | _ => false
  | .encrypt | .decrypt =>
    match r with
    | .lane .a _ | .lane .b _ => true
    | _ => false
  | .magicp | .magicq | .add | .sub | .rotl | .rotr | .xor =>
    match r with
    | .lane .z _ => true
    | _ => false

/-- The register is a destination of the pending command (R66); an illegal command writes none (R77). -/
def pendingDest (s : State) (r : Reg) : Bool :=
  match s.eng with
  | .idle => false
  | .busy c =>
    match decode c with
    | .ok i => mayWrite i r
    | .error _ => false

/-- The current value of a register as a read returns it (10_state.md R20 to R34; 20_memory.md R56 to R62). -/
def readReg (s : State) : Reg → BusWord
  | .id => Config.idWord
  | .cap => capWord s.config
  | .ctrl => ctrlWord s
  | .status => statusWord s
  | .cmd => 0
  | .cfg => cfgWord s
  | .keylen => s.keylen.setWidth 32
  | .slen => s.slen.setWidth 32
  | .llen => s.llen.setWidth 32
  | .lane r l => getLane (getWordReg s r) l
  | .key k => getKeyReg s k
  | .lSlot j l => getLane s.lArr[j] l
  | .sSlot i l => getLane s.sArr[i] l
  | .reserved => 0

/-- A write of d to CTRL (10_state.md R22): with bit 1 (SRST) set a soft reset, whose other bits are not stored
(70_reset_and_hazards.md R170); else IE is bit 0. -/
def writeCtrl (s : State) (d : BusWord) : State :=
  if d.getLsbD 1 then resetBlock s else { s with ie := d.getLsbD 0 }

/-- A write of d to lane l of a word register; Z is read-only (10_state.md R29 to R31). -/
def writeLane (s : State) (r : WordReg) (l : Nat) (d : BusWord) : State :=
  match r with
  | .a => { s with a := setLane s.a l d }
  | .b => { s with b := setLane s.b l d }
  | .x => { s with x := setLane s.x l d }
  | .y => { s with y := setLane s.y l d }
  | .z => s

/-- A write of d to lane l of S[i] (20_memory.md R59). -/
def writeSlotS (s : State) (i : Fin 512) (l : Nat) (d : BusWord) : State :=
  { s with sArr := s.sArr.set i (setLane s.sArr[i] l d) }

/-- A write that is performed: the register's bits stored, with the three side effects of R64. Reserved bits and read-only
registers ignore it (R61, R62). -/
def writeReg (s : State) (r : Reg) (d : BusWord) : State :=
  match r with
  | .ctrl => writeCtrl s d
  | .status => writeStatus s d
  | .cmd => accept (CommandWord.ofWord d) s
  | .cfg => { s with wSel := d.extractLsb' 0 3, rounds := d.extractLsb' 8 10 }
  | .keylen => { s with keylen := d.extractLsb' 0 9 }
  | .slen => { s with slen := d.extractLsb' 0 10 }
  | .lane r l => writeLane s r l d
  | .key k => { s with key := setKeyReg s.key k d }
  | .sSlot i l => writeSlotS s i l d
  | .id | .cap | .llen | .lSlot _ _ | .reserved => s

/-- A host read of a register (R63, R66): its value, or inside the busy window a free draw for a pending destination. -/
def hostRead (s : State) (r : Reg) : State × Response :=
  if pendingDest s r then ({ s with draws := s.draws + 1 }, .readOkay (Config.freeRead s.draws))
  else (s, .readOkay (readReg s r))

/-- A host write to a register (R65): dropped with OVR when the register is locked and the block busy, else performed. -/
def hostWrite (s : State) (r : Reg) (d : BusWord) : State × Response :=
  if locked r && isBusy s then (overrun s, .writeOkay) else (writeReg s r d, .writeOkay)

/-- One bus access (R51, R53): outside the aperture it does not reach the block; an access that is not an aligned 4-byte one
changes nothing, returns 0 and gets ERROR; any other is a read or a write of the register at its offset. -/
def busAccess (a : Access) (s : State) : State × Option Response :=
  if a.inAperture s.config then
    if a.sizeLegal && a.aligned s.config then
      let r := regAt (a.addr - s.config.base)
      match a.kind with
      | .read => let (t, resp) := hostRead s r; (t, some resp)
      | .write d => let (t, resp) := hostWrite s r d; (t, some resp)
    else (s, some (.error 0))
  else (s, none)

/-- A host's turn: the access performed and its response driven; an ERROR response is "a host-side fault of the host
program" (R54), which stops the run. -/
def hostTurn (a : Access) (s : State) : Host.Outcome State Fault Refusal :=
  match busAccess a s with
  | (t, none) => .next t
  | (t, some resp) =>
    match resp with
    | .error _ => .fault .busError
    | .readOkay _ | .writeOkay => .next { t with busOut := some resp }

/-- The byte at an offset of the aperture as the bus shows it (R57). -/
def busByte (s : State) (off : Nat) : Byte := byteOfBusWord (readReg s (regAt (off / 4 * 4))) (off % 4)

end Sys2Proof.Machine
end

