-- ==== Sys2Proof/Machine/Arithmetic.lean ====
section
/-! DEFINITION. The primitive commands (41_word_arithmetic.md R108 to R112) and PACKKEY (R113). -/

namespace Sys2Proof.Machine

/-- ADD (R108): `Z <- zext_128(add_w(low_w(X), low_w(Y)))`. -/
def execAdd (s : State) : Host.Outcome State Fault Refusal :=
  complete s (do
    let w ← readWidth s
    .ok { s with z := zextSlot (addW (lowW w s.x) (lowW w s.y)) })

/-- SUB (R109): `Z <- zext_128(sub_w(low_w(X), low_w(Y)))`. -/
def execSub (s : State) : Host.Outcome State Fault Refusal :=
  complete s (do
    let w ← readWidth s
    .ok { s with z := zextSlot (subW (lowW w s.x) (lowW w s.y)) })

/-- ROTL (R110): `Z <- zext_128(rotl_w(X, Y mod w))`; the amount is the whole of Y (30_encoding.md R81). -/
def execRotl (s : State) : Host.Outcome State Fault Refusal :=
  complete s (do
    let w ← readWidth s
    .ok { s with z := zextSlot (rotlW (lowW w s.x) (s.y.toNat % w.bits)) })

/-- ROTR (R111): `Z <- zext_128(rotr_w(X, Y mod w))`; the amount is the whole of Y (30_encoding.md R81). -/
def execRotr (s : State) : Host.Outcome State Fault Refusal :=
  complete s (do
    let w ← readWidth s
    .ok { s with z := zextSlot (rotrW (lowW w s.x) (s.y.toNat % w.bits)) })

/-- XOR (R112): `Z <- zext_128(xor_w(low_w(X), low_w(Y)))`. -/
def execXor (s : State) : Host.Outcome State Fault Refusal :=
  complete s (do
    let w ← readWidth s
    .ok { s with z := zextSlot (xorW (lowW w s.x) (lowW w s.y)) })

/-- PACKKEY (R113): `L[0..b/u-1] <- bytes_to_words(KEY[0..b-1], w)`, strict; `LLEN <- b/u`. -/
def execPackkey (s : State) : Host.Outcome State Fault Refusal :=
  complete s (do
    let w ← readWidth s
    let b ← readKeyLen s
    let words ← bytesToWords w (keyBytes s b)
    .ok { s with lArr := overlay words s.lArr, llen := BitVec.ofNat 9 (b / w.bytes) })

end Sys2Proof.Machine
end

