-- ==== Sys2Proof/Machine/Cipher.lean ====
section
/-! DEFINITION. The cipher engine (44_cipher_engine.md R139 to R141): the commands ENCRYPT and DECRYPT. -/

namespace Sys2Proof.Machine

/-- `CIPHER_INPUTS()` (R141): the width and round count, after the checks in the order of 60_exceptions.md R159. -/
def cipherInputs (s : State) : Except CmdError (Width × Nat) := do
  let w ← readWidth s
  let r ← readRounds s
  if s.slen.toNat ≠ 2 * r + 2 then .error .invalidExpandedKey
  else if !fitsW w s.a then .error .mismatchedWidth
  else if !fitsW w s.b then .error .mismatchedWidth
  else if !(s.sArr.toList.take (2 * r + 2)).all (fitsW w) then .error .mismatchedWidth
  else .ok (w, r)

/-- The expanded key's word i as a w-bit word. -/
def expandedKey (w : Width) (s : State) (i : Nat) : Word w := lowW w (slotS s i)

/-- Round i of encryption (R139): the updated a is used for the new b. -/
def encryptRound {w : Width} (k : Nat → Word w) (i : Nat) (ab : Word w × Word w) : Word w × Word w :=
  let a := addW (rotlW (xorW ab.1 ab.2) ab.2.toNat) (k (2 * i))
  let b := addW (rotlW (xorW ab.2 a) a.toNat) (k (2 * i + 1))
  (a, b)

/-- Rounds 1 to r of encryption, ascending (R139). -/
def encryptRounds {w : Width} (k : Nat → Word w) : Nat → Word w × Word w → Word w × Word w
  | 0, ab => ab
  | r + 1, ab => encryptRound k (r + 1) (encryptRounds k r ab)

/-- Round i of decryption (R140): the updated b is used for the new a. -/
def decryptRound {w : Width} (k : Nat → Word w) (i : Nat) (ab : Word w × Word w) : Word w × Word w :=
  let b := xorW (rotrW (subW ab.2 (k (2 * i + 1))) ab.1.toNat) ab.1
  let a := xorW (rotrW (subW ab.1 (k (2 * i))) b.toNat) b
  (a, b)

/-- Rounds r to 1 of decryption, descending (R140). -/
def decryptRounds {w : Width} (k : Nat → Word w) : Nat → Word w × Word w → Word w × Word w
  | 0, ab => ab
  | r + 1, ab => decryptRounds k r (decryptRound k (r + 1) ab)

/-- Encryption of a block (R139): the whitening additions, then r rounds. -/
def encryptBlock {w : Width} (k : Nat → Word w) (r : Nat) (ab : Word w × Word w) : Word w × Word w :=
  encryptRounds k r (addW ab.1 (k 0), addW ab.2 (k 1))

/-- Decryption of a block (R140): r rounds, then the final subtractions. -/
def decryptBlock {w : Width} (k : Nat → Word w) (r : Nat) (ab : Word w × Word w) : Word w × Word w :=
  let cd := decryptRounds k r ab
  (subW cd.1 (k 0), subW cd.2 (k 1))

/-- ENCRYPT (R139). -/
def execEncrypt (s : State) : Host.Outcome State Fault Refusal :=
  complete s (do
    let (w, r) ← cipherInputs s
    let ab := encryptBlock (expandedKey w s) r (lowW w s.a, lowW w s.b)
    .ok { s with a := zextSlot ab.1, b := zextSlot ab.2 })

/-- DECRYPT (R140). -/
def execDecrypt (s : State) : Host.Outcome State Fault Refusal :=
  complete s (do
    let (w, r) ← cipherInputs s
    let ab := decryptBlock (expandedKey w s) r (lowW w s.a, lowW w s.b)
    .ok { s with a := zextSlot ab.1, b := zextSlot ab.2 })

end Sys2Proof.Machine
end

