-- ==== Sys2Proof/Machine/Control.lean ====
section
/-! DEFINITION. The control commands: NOP (40_command_control.md R93) and the completion of an illegal command word (R94). -/

namespace Sys2Proof.Machine

/-- NOP (R93): `success with no writes`. -/
def execNop (s : State) : Host.Outcome State Fault Refusal := complete s (.ok s)

/-- The completion of an illegal command word (R94): `raise IllegalCommand()`. -/
def execIllegal (s : State) : Host.Outcome State Fault Refusal := complete s (.error .illegalCommand)

end Sys2Proof.Machine
end

