-- ==== Sys2Proof/Machine/Magic.lean ====
section
/-! DEFINITION. The magic constants (43_magic_constants.md R134, R135) and the commands MAGICP (R136) and MAGICQ (R137). -/

namespace Sys2Proof.Machine

/-- `P_w` (R134): the odd integer nearest to `(e - 2) * 2^w`. -/
def magicP (w : Width) : Word w :=
  match w with
  | .w8 => 0xB7#8
  | .w16 => 0xB7E1#16
  | .w32 => 0xB7E15163#32
  | .w64 => 0xB7E151628AED2A6B#64
  | .w128 => 0xB7E151628AED2A6ABF7158809CF4F3C7#128

/-- `Q_w` (R134): the odd integer nearest to `(phi - 1) * 2^w`. -/
def magicQ (w : Width) : Word w :=
  match w with
  | .w8 => 0x9F#8
  | .w16 => 0x9E37#16
  | .w32 => 0x9E3779B9#32
  | .w64 => 0x9E3779B97F4A7C15#64
  | .w128 => 0x9E3779B97F4A7C15F39CC0605CEDC835#128

/-- MAGICP (R136): `Z <- zext_128(P_w)`. -/
def execMagicp (s : State) : Host.Outcome State Fault Refusal :=
  complete s (do
    let w ← readWidth s
    .ok { s with z := zextSlot (magicP w) })

/-- MAGICQ (R137): `Z <- zext_128(Q_w)`. -/
def execMagicq (s : State) : Host.Outcome State Fault Refusal :=
  complete s (do
    let w ← readWidth s
    .ok { s with z := zextSlot (magicQ w) })

end Sys2Proof.Machine
end

