-- ==== Sys2Proof/Machine/KeySchedule.lean ====
section
/-! DEFINITION. The key schedule (42_key_schedule.md R120 to R124): the command SETKEY. -/

namespace Sys2Proof.Machine

/-- Step 2 (R121): n words, the first p and each next one `add_w` of the one before and q. -/
def initS {w : Width} : Nat → Word w → Word w → List (Word w)
  | 0, _, _ => []
  | n + 1, p, q => p :: initS n (addW p q) q

/-- The working values of the mixing pass (R123): the two arrays, the indices and the accumulators. They are engine-internal
(10_state.md R36), not the block registers A and B. -/
structure Mixing (w : Width) where
  s : List (Word w)
  l : List (Word w)
  i : Nat
  j : Nat
  a : Word w
  b : Word w

/-- One iteration of the mixing pass (R123). -/
def mixStep {w : Width} (m : Mixing w) : Mixing w :=
  let a := rotlW (addW (addW (m.s.getD m.i 0) m.a) m.b) 3
  let b := rotlW (addW (addW (m.l.getD m.j 0) a) m.b) (addW a m.b).toNat
  { s := m.s.set m.i a
    l := m.l.set m.j b
    i := (m.i + 1) % m.s.length
    j := (m.j + 1) % m.l.length
    a := a
    b := b }

/-- So many iterations of the mixing pass. -/
def mixLoop {w : Width} : Nat → Mixing w → Mixing w
  | 0, m => m
  | t + 1, m => mixLoop t (mixStep m)

/-- Step 4 (R123): `t = 3 * max(c, n)` iterations from i = j = A = B = 0. -/
def mix {w : Width} (s l : List (Word w)) : Mixing w :=
  mixLoop (3 * max l.length s.length) { s := s, l := l, i := 0, j := 0, a := 0, b := 0 }

/-- Step 5 (R124): the mixed words into S and L, their numbers into SLEN and LLEN; other slots keep their values. -/
def commitKey {w : Width} (m : Mixing w) (r : Nat) (s : State) : State :=
  { s with
    sArr := overlay m.s s.sArr
    lArr := overlay m.l s.lArr
    slen := BitVec.ofNat 10 (2 * r + 2)
    llen := BitVec.ofNat 9 m.l.length }

/-- SETKEY (R120). -/
def execSetkey (s : State) : Host.Outcome State Fault Refusal :=
  complete s (do
    let w ← readWidth s
    let r ← readRounds s
    let b ← readKeyLen s
    let l ← keyWords w (keyBytes s b)
    .ok (commitKey (mix (initS (2 * r + 2) (magicP w) (magicQ w)) l) r s))

end Sys2Proof.Machine
end

