-- ==== Sys2Proof/Machine/Dispatch.lean ====
section
/-! DEFINITION. `Exec` of 40_command_control.md R89 with its completion: one arm per command of 30_encoding.md R76. -/

namespace Sys2Proof.Machine

/-- The completion step of a command (R89). -/
def exec (i : Instr) (s : State) : Host.Outcome State Fault Refusal :=
  match i with
  | .nop => Sys2Proof.Machine.execNop s
  | .setkey => Sys2Proof.Machine.execSetkey s
  | .encrypt => Sys2Proof.Machine.execEncrypt s
  | .decrypt => Sys2Proof.Machine.execDecrypt s
  | .magicp => Sys2Proof.Machine.execMagicp s
  | .magicq => Sys2Proof.Machine.execMagicq s
  | .packkey => Sys2Proof.Machine.execPackkey s
  | .add => Sys2Proof.Machine.execAdd s
  | .sub => Sys2Proof.Machine.execSub s
  | .rotl => Sys2Proof.Machine.execRotl s
  | .rotr => Sys2Proof.Machine.execRotr s
  | .xor => Sys2Proof.Machine.execXor s

end Sys2Proof.Machine
end

