-- ==== Sys2Proof/Machine/Turns.lean ====
section
/-! DEFINITION. What each agent does in its turn (00_scope.md R14), and the acceptance that stands for a fetch. -/

namespace Sys2Proof.Machine

/-- The engine's turn: nothing while IDLE; while BUSY the completion step of the latched command word (40_command_control.md R89),
which is the command it decodes to or, for an illegal word, IllegalCommand (30_encoding.md R75). -/
def engineTurn (s : State) : Host.Outcome State Fault Refusal :=
  match s.eng with
  | .idle => .next s
  | .busy c =>
    match decode c with
    | .ok i => exec i s
    | .error _ => execIllegal s

/-- One turn of the agent the agenda names. -/
def runTurn (t : Turn) (s : State) : Host.Outcome State Fault Refusal :=
  match t with
  | .host a => hostTurn a s
  | .engine => engineTurn s
  | .hardReset => .next (resetBlock s)

/-- The state in which the command word was just accepted and the engine has the next turn. -/
def placeCommand (c : CommandWord) (s : State) : State :=
  { accept c s with
    agenda :=
      match s.agenda with
      | [] => []
      | t :: rest => .engine :: t :: rest }

end Sys2Proof.Machine
end

