-- ==== Sys2Proof/Machine/Step.lean ====
section
/-! DEFINITION. One step of RC5CORE: the next turn of the agenda, or the engine's when none is left. -/

namespace Sys2Proof.Machine

/-- One step. When the agenda is empty the engine moves: a pending command never stays pending (70_reset_and_hazards.md R182). -/
def step (s : State) : Host.Outcome State Fault Refusal :=
  match s.agenda with
  | [] => runTurn .engine s
  | t :: rest => runTurn t { s with agenda := rest }

/-- The state whose very next step completes the command word w: nothing is fetched (20_memory.md R71), so this stands for a
host's write of w to CMD (log entry 11). -/
def State.withFetchWord (s : State) (nbits w : Nat) : State :=
  placeCommand (CommandWord.ofWord (tableWord nbits w)) s

end Sys2Proof.Machine
end

