-- ==== Sys2Proof/Safety.lean ====
section
/-! DEFINITION. What counts as a safe run, in the terms the statements use. -/

namespace Sys2Proof.Machine

/-- The invariant of RC5CORE: while a command is pending DONE and ERRCODE are 0 (40_command_control.md R88, R89), ERRCODE is
never 7 to 15 (60_exceptions.md R157), and LLEN is at most 255, the most L slots a command uses (00_scope.md R13). -/
abbrev State.Inv (s : State) : Prop :=
  (s.eng ≠ .idle → s.done = false ∧ s.errcode = 0) ∧ s.errcode.toNat ≤ 6 ∧ s.llen.toNat ≤ 255

/-- A turn that gets no ERROR response (20_memory.md R53): an access outside the aperture or a legal one in it, the engine's
turn, a reset. -/
def Turn.legal (c : Config) : Turn → Bool
  | .host a => !a.inAperture c || a.wf c
  | .engine => true
  | .hardReset => true

/-- A turn that resets the block (70_reset_and_hazards.md R170): rst_n, or a legal write to CTRL with bit 1 set. -/
def Turn.resets (c : Config) : Turn → Bool
  | .host a =>
    match a.kind with
    | .read => false
    | .write d => a.wf c && a.addr - c.base == 0x08 && d.getLsbD 1
  | .engine => false
  | .hardReset => true

/-- A safe run of k steps from s: it neither faults nor is refused. -/
def SafeRun (k : Nat) (s : State) : Prop := ∃ t, Host.Core.run Sys2Proof.core k s = .next t

end Sys2Proof.Machine
end

