-- ==== Sys2Proof/Certificates/Slice0/Obligations.lean ====
section
/-! DEFINITION. The statements for the provers. Namespace `Sys2Proof.Ref` reads the spec's formulas over mathematical integers,
without the model's functions; the statements compare the model with it. The fields `agenda` (log entries 1, 2), `busOut` (log
entry 6) and `draws` (log entries 4, 5) are the model's own: what a statement says of them is the model's choice, no rule of the spec. -/

namespace Sys2Proof.Ref

open Sys2Proof.Machine

/-! ### The spec's words -/

/-- W_SEL names an implemented width (40_command_control.md R91). -/
def widthOk (s : State) : Prop := s.wSel.toNat ≤ 4 ∧ s.config.implWidths.getLsbD s.wSel.toNat = true

/-- `w = 8 << W_SEL` (00_scope.md R8). -/
def bits (s : State) : Nat := 8 * 2 ^ s.wSel.toNat

/-- `u = w / 8` (00_scope.md R9). -/
def bytes (s : State) : Nat := bits s / 8

/-- A successful completion: BUSY 0, DONE 1 (40_command_control.md R89). -/
def ends (s : State) : State := { s with eng := .idle, done := true }

/-- A failed completion: the code, BUSY 0, DONE 1, nothing else (60_exceptions.md R158). -/
def fails (code : BitVec 4) (s : State) : State := { s with errcode := code, eng := .idle, done := true }

/-- `rotl_w(x, amount)` as R101 computes it. -/
def rotl (w x amount : Nat) : Nat :=
  let v := x % 2 ^ w
  let n := amount % w
  if n = 0 then v else (v * 2 ^ n) % 2 ^ w + v / 2 ^ (w - n)

/-- `rotr_w(x, amount)` as R102 computes it. -/
def rotr (w x amount : Nat) : Nat :=
  let v := x % 2 ^ w
  let n := amount % w
  if n = 0 then v else v / 2 ^ n + (v * 2 ^ (w - n)) % 2 ^ w

/-- `add_w` (R99). -/
def add (w x y : Nat) : Nat := (x + y) % 2 ^ w

/-- `sub_w` (R100), over the integers. -/
def sub (w x y : Nat) : Nat := (((x : Int) - (y : Int)) % (2 ^ w : Int)).toNat

/-- `xor_w` (R103) of the low w bits. -/
def xor (w x y : Nat) : Nat := (x % 2 ^ w) ^^^ (y % 2 ^ w)

/-- The sum of R104: `bytes[j*u + k] * 2^(8*k)` over k < u, for a byte sequence given by its values. -/
def leSum (u j : Nat) (byte : Nat → Nat) : Nat := ∑ k ∈ Finset.range u, byte (j * u + k) * 2 ^ (8 * k)

/-- KEY[n] as a number. -/
def keyByte (s : State) (n : Nat) : Nat := (s.key.toList.getD n 0).toNat

/-- The table of `P_w` (43_magic_constants.md R134), by W_SEL. -/
def tableP (ws : Nat) : Nat :=
  [0xB7, 0xB7E1, 0xB7E15163, 0xB7E151628AED2A6B, 0xB7E151628AED2A6ABF7158809CF4F3C7].getD ws 0

/-- The table of `Q_w` (43_magic_constants.md R134), by W_SEL. -/
def tableQ (ws : Nat) : Nat :=
  [0x9F, 0x9E37, 0x9E3779B9, 0x9E3779B97F4A7C15, 0x9E3779B97F4A7C15F39CC0605CEDC835].getD ws 0

/-! ### Key schedule and cipher -/

/-- The working values of the mixing pass (42_key_schedule.md R123). -/
structure Mix where
  s : Nat → Nat
  l : Nat → Nat
  i : Nat
  j : Nat
  a : Nat
  b : Nat

/-- One iteration of R123, for n words of s and c of l. -/
def mixStep (w n c : Nat) (m : Mix) : Mix :=
  let a := rotl w (add w (add w (m.s m.i) m.a) m.b) 3
  let b := rotl w (add w (add w (m.l m.j) a) m.b) (add w a m.b)
  { s := Function.update m.s m.i a
    l := Function.update m.l m.j b
    i := (m.i + 1) % n
    j := (m.j + 1) % c
    a := a
    b := b }

/-- The mixing pass of R123: `t = 3 * max(c, n)` iterations. -/
def mix (w n c : Nat) (s l : Nat → Nat) : Mix := (mixStep w n c)^[3 * max c n] ⟨s, l, 0, 0, 0, 0⟩

/-- `c = max(1, ceil(b / u))` (00_scope.md R12). -/
def keyWordCount (u b : Nat) : Nat := max 1 ((b + u - 1) / u)

/-- Word j of the zero-padded key (41_word_arithmetic.md R105), from the key's first b bytes. -/
def keyWord (u b j : Nat) (byte : Nat → Nat) : Nat := leSum u j fun n => if n < b then byte n else 0

/-- SETKEY's mixed words for the state's configuration and key (R120 to R123). -/
def schedule (s : State) : Mix :=
  let w := bits s
  mix w (2 * s.rounds.toNat + 2) (keyWordCount (bytes s) s.keylen.toNat)
    (fun i => (tableP s.wSel.toNat + i * tableQ s.wSel.toNat) % 2 ^ w)
    (fun j => keyWord (bytes s) s.keylen.toNat j (keyByte s))

/-- The value of S[i]. -/
def keySlot (s : State) (i : Nat) : Nat := (s.sArr.toList.getD i 0).toNat

/-- ENCRYPT's a and b after r rounds (44_cipher_engine.md R139). -/
def encrypt (w : Nat) (k : Nat → Nat) (a b : Nat) : Nat → Nat × Nat
  | 0 => (add w a (k 0), add w b (k 1))
  | r + 1 =>
    let p := encrypt w k a b r
    let a' := add w (rotl w (xor w p.1 p.2) p.2) (k (2 * (r + 1)))
    let b' := add w (rotl w (xor w p.2 a') a') (k (2 * (r + 1) + 1))
    (a', b')

/-- DECRYPT's result after rounds r, ..., 1 and the final subtractions (44_cipher_engine.md R140). -/
def decrypt (w : Nat) (k : Nat → Nat) : Nat → Nat → Nat → Nat × Nat
  | 0, a, b => (sub w a (k 0), sub w b (k 1))
  | r + 1, a, b =>
    let b' := xor w (rotr w (sub w b (k (2 * (r + 1) + 1))) a) a
    let a' := xor w (rotr w (sub w a (k (2 * (r + 1)))) b') b'
    decrypt w k r a' b'

/-- The conditions of `CIPHER_INPUTS()` other than the width (R141): r ≤ 255, SLEN = 2r+2, and A, B, S[0..2r+1] fit. -/
def cipherOk (s : State) : Prop :=
  s.rounds.toNat ≤ 255 ∧ s.slen.toNat = 2 * s.rounds.toNat + 2 ∧
    s.a.toNat < 2 ^ bits s ∧ s.b.toNat < 2 ^ bits s ∧
    ∀ i < 2 * s.rounds.toNat + 2, keySlot s i < 2 ^ bits s

/-! ### Commands -/

/-- The commands that use a word width (60_exceptions.md R151): all but NOP. -/
def usesWidth (i : Instr) : Prop := i ≠ .nop

/-- The commands that check the round count (R152). -/
def usesRounds (i : Instr) : Prop := i = .setkey ∨ i = .encrypt ∨ i = .decrypt

/-- The commands that check the key length (R152). -/
def usesKeyLen (i : Instr) : Prop := i = .setkey ∨ i = .packkey

/-- The cipher commands. -/
def isCipher (i : Instr) : Prop := i = .encrypt ∨ i = .decrypt

/-- "A, B or one of S[0..2r+1] has a set bit at position w or above" (R154). -/
def blockTooWide (s : State) : Prop :=
  2 ^ bits s ≤ s.a.toNat ∨ 2 ^ bits s ≤ s.b.toNat ∨ ∃ i < 2 * s.rounds.toNat + 2, 2 ^ bits s ≤ keySlot s i

open Classical in
/-- The code of the one error a command reports, 0 for none (R159). -/
noncomputable def firstError (i : Instr) (s : State) : BitVec 4 :=
  if usesWidth i ∧ ¬ widthOk s then 1
  else if usesRounds i ∧ s.rounds.toNat > 255 then 2
  else if usesKeyLen i ∧ s.keylen.toNat > 255 then 2
  else if i = .packkey ∧ s.keylen.toNat % bytes s ≠ 0 then 3
  else if isCipher i ∧ s.slen.toNat ≠ 2 * (s.rounds.toNat + 1) then 5
  else if isCipher i ∧ blockTooWide s then 4
  else 0

/-- A command word that is illegal: RSV ≠ 0, or OP in 0x07 to 0x0F or 0x15 to 0xFF (30_encoding.md R77). -/
def illegalWord (c : CommandWord) : Prop :=
  c.rsv ≠ 0 ∨ (0x07 ≤ c.op.toNat ∧ c.op.toNat ≤ 0x0F) ∨ 0x15 ≤ c.op.toNat

/-- The next turn is the engine's: its turn stands first in the agenda, or no turn is left. -/
def engineMoves (s : State) : Prop := s.agenda = [] ∨ ∃ rest, s.agenda = .engine :: rest

/-! ### The bus -/

/-- A 4-byte read at an offset of the aperture. -/
def readAt (s : State) (off : Nat) : Access := { addr := s.config.base + off, size := .four, kind := .read }

/-- A 4-byte write at an offset of the aperture. -/
def writeAt (s : State) (off : Nat) (d : BusWord) : Access :=
  { addr := s.config.base + off, size := .four, kind := .write d }

/-- An aligned offset of the aperture (20_memory.md R51, R53). -/
def offset (off : Nat) : Prop := off < 0x4000 ∧ off % 4 = 0

/-- The offsets R55 marks as locked. -/
def lockedOffset (off : Nat) : Prop :=
  (0x10 ≤ off ∧ off ≤ 0x1C) ∨ (0x40 ≤ off ∧ off ≤ 0x7C) ∨ (0x100 ≤ off ∧ off ≤ 0x1FC) ∨ (0x2000 ≤ off ∧ off ≤ 0x3FFC)

/-- The offsets of the read-only registers: ID, CAP, LLEN, Z, L (R62). -/
def readOnlyOffset (off : Nat) : Prop :=
  off = 0x00 ∨ off = 0x04 ∨ off = 0x20 ∨ (0x80 ≤ off ∧ off ≤ 0x8C) ∨ (0x1000 ≤ off ∧ off ≤ 0x1FFC)

/-- The reserved offsets (R61). -/
def reservedOffset (off : Nat) : Prop :=
  (0x24 ≤ off ∧ off ≤ 0x3C) ∨ (0x90 ≤ off ∧ off ≤ 0xFC) ∨ (0x200 ≤ off ∧ off ≤ 0xFFC)

/-- The offsets a command may write: the "writes" column of 30_encoding.md R76 through the map of R55. -/
def writesOffset (i : Instr) (off : Nat) : Prop :=
  match i with
  | .nop => False
  | .setkey => off = 0x1C ∨ off = 0x20 ∨ (0x1000 ≤ off ∧ off ≤ 0x1FFC) ∨ (0x2000 ≤ off ∧ off ≤ 0x3FFC)
  | .packkey => off = 0x20 ∨ (0x1000 ≤ off ∧ off ≤ 0x1FFC)
  | .encrypt | .decrypt => 0x40 ≤ off ∧ off ≤ 0x5C
  | .magicp | .magicq | .add | .sub | .rotl | .rotr | .xor => 0x80 ≤ off ∧ off ≤ 0x8C

/-- The first offset of a word register (20_memory.md R55). -/
def firstOffset : WordReg → Nat
  | .a => 0x40
  | .b => 0x50
  | .x => 0x60
  | .y => 0x70
  | .z => 0x80

/-- The 128-bit value v starts at offset o: a word register, an S slot or an L slot (20_memory.md R55, R59, R60). -/
def holds (s : State) (o : Nat) (v : Slot) : Prop :=
  (∃ r, o = firstOffset r ∧ v = getWordReg s r) ∨ (∃ i : Fin 512, o = 0x2000 + 16 * i ∧ v = s.sArr[i]) ∨
    ∃ j : Fin 256, o = 0x1000 + 16 * j ∧ v = s.lArr[j]

/-- Every register but S and L at the reset value of 10_state.md R22 to R32, and ENG IDLE (70_reset_and_hazards.md R171). -/
def atReset (t : State) : Prop :=
  t.eng = .idle ∧ t.ie = false ∧ statusWord t = 0 ∧ cfgWord t = 0xC02 ∧ t.keylen = 16 ∧ t.slen = 0 ∧ t.llen = 0 ∧
    t.a = 0 ∧ t.b = 0 ∧ t.x = 0 ∧ t.y = 0 ∧ t.z = 0 ∧ ∀ n : Fin 256, t.key[n] = 0

/-- A host access that gets no ERROR response and does not reset the block. -/
def quiet (c : Config) (a : Access) : Prop :=
  Turn.legal c (.host a) = true ∧ Turn.resets c (.host a) = false

end Sys2Proof.Ref

open Sys2Proof Sys2Proof.Machine

/-! ### Encoding -/

/-- 30_encoding.md R76: each command's 32-bit word, bit by bit from the opcode map, decodes to it. -/
def Obligations.OpcodeWordsDecodeToTheirCommands : Prop :=
  decodeWord 0b00000000000000000000000000000000 = .ok .nop ∧
  decodeWord 0b00000000000000000000000000000001 = .ok .setkey ∧
  decodeWord 0b00000000000000000000000000000010 = .ok .encrypt ∧
  decodeWord 0b00000000000000000000000000000011 = .ok .decrypt ∧
  decodeWord 0b00000000000000000000000000000100 = .ok .magicp ∧
  decodeWord 0b00000000000000000000000000000101 = .ok .magicq ∧
  decodeWord 0b00000000000000000000000000000110 = .ok .packkey ∧
  decodeWord 0b00000000000000000000000000010000 = .ok .add ∧
  decodeWord 0b00000000000000000000000000010001 = .ok .sub ∧
  decodeWord 0b00000000000000000000000000010010 = .ok .rotl ∧
  decodeWord 0b00000000000000000000000000010011 = .ok .rotr ∧
  decodeWord 0b00000000000000000000000000010100 = .ok .xor

/-- Of all 2^32 command words a command is decoded from its own word alone, and from its bytes on the little-endian bus. -/
def Obligations.DecodeAcceptsExactlyTheEncodings : Prop :=
  ∀ (v : BusWord) (i : Instr), (decodeWord v = .ok i ↔ v = encode i) ∧
    (decodeBytes [byteOfBusWord v 0, byteOfBusWord v 1, byteOfBusWord v 2, byteOfBusWord v 3] = .ok i ↔ v = encode i)

/-- 30_encoding.md R75: an illegal word completes with IllegalCommand, any other runs exactly one command. -/
def Obligations.CompletionSelectsExactlyOneCommand : Prop :=
  ∀ (s : State) (c : CommandWord), s.eng = .busy c → Ref.engineMoves s →
    (Ref.illegalWord c → step s = .next (Ref.fails 6 { s with agenda := s.agenda.tail })) ∧
    (¬ Ref.illegalWord c → ∃ i, (∀ i', encode i' = CommandWord.toWord c ↔ i' = i) ∧
      step s = exec i { s with agenda := s.agenda.tail })

/-- 40_command_control.md R89: the engine's turn on a latched word that decodes to a command is that command's completion, and
with no turn left nothing is added around it. -/
def Obligations.StepRunsTheDecodedCommand : Prop :=
  ∀ (s : State) (c : CommandWord) (i : Instr), s.eng = .busy c → decode c = .ok i →
    (∀ rest, s.agenda = .engine :: rest → step s = exec i { s with agenda := rest }) ∧
    (s.agenda = [] → step s = exec i s)

/-! ### The command life cycle -/

/-- 40_command_control.md R88: a host write of v to CMD is accepted when idle, and only sets OVR when busy. -/
def Obligations.CmdWriteAcceptsOrOverruns : Prop :=
  ∀ (s : State) (v : BusWord),
    (s.eng = .idle → hostTurn (Ref.writeAt s 0x10 v) s =
      .next { s with eng := .busy ⟨v.extractLsb' 0 8, v.extractLsb' 8 24⟩, done := false, errcode := 0, busOut := some .writeOkay }) ∧
    (s.eng ≠ .idle → hostTurn (Ref.writeAt s 0x10 v) s = .next { s with ovr := true, busOut := some .writeOkay })

/-- 40_command_control.md R87: only a CMD write moves the engine to BUSY, with that word; only the completion step or a reset
moves it to IDLE; a pending word never changes. -/
def Obligations.EngineMovesOnlyByCmdWriteCompletionOrReset : Prop :=
  State.reset.eng = .idle ∧
  ∀ s t : State, step s = .next t →
    (s.eng = .idle → t.eng ≠ .idle → ∃ a d rest, s.agenda = .host a :: rest ∧ a.wf s.config = true ∧
      a.addr = s.config.base + 0x10 ∧ a.kind = .write d ∧ t.eng = .busy (CommandWord.ofWord d)) ∧
    (s.eng ≠ .idle → t.eng = .idle → Ref.engineMoves s ∨
      ∃ u rest, s.agenda = u :: rest ∧ u.resets s.config = true) ∧
    (s.eng ≠ .idle → t.eng ≠ .idle → t.eng = s.eng)

/-- 40_command_control.md R93: NOP writes nothing but STATUS; run from an idle block it clears ERRCODE and sets DONE. -/
def Obligations.NopWritesOnlyStatus : Prop :=
  encode .nop = 0 ∧
  (∀ s, exec .nop s = .next (Ref.ends s)) ∧
  ∀ s, s.eng = .idle → ∃ t, hostTurn (Ref.writeAt s 0x10 0) s = .next t ∧
    engineTurn t = .next { s with errcode := 0, done := true, busOut := some .writeOkay }

/-- 40_command_control.md R94: an illegal word, whatever the state, ends with ERRCODE 6 and no other write. -/
def Obligations.IllegalCommandReportsCodeSix : Prop :=
  ∀ (s : State) (c : CommandWord), s.eng = .busy c → Ref.illegalWord c → engineTurn s = .next (Ref.fails 6 s)

/-- 40_command_control.md R90: whatever accesses (none that gets ERROR, no reset) the hosts make while a command is pending, it ends with the
results it would have had at acceptance (R90 is the spec's derivation from R88, R89, R65; the turn order is log entry 1). -/
def Obligations.CommandIsAFunctionOfTheAcceptedState : Prop :=
  ∀ (s : State) (accesses : List Access), s.eng ≠ .idle → (∀ a ∈ accesses, Ref.quiet s.config a) →
    ∃ t₀ t₁,
      Host.Core.run Sys2Proof.core 1 { s with agenda := [.engine] } = .next t₀ ∧
      Host.Core.run Sys2Proof.core (accesses.length + 1) { s with agenda := accesses.map .host ++ [.engine] } = .next t₁ ∧
      t₁.eng = .idle ∧ t₁.done = true ∧
      t₁.a = t₀.a ∧ t₁.b = t₀.b ∧ t₁.z = t₀.z ∧ t₁.sArr = t₀.sArr ∧ t₁.lArr = t₀.lArr ∧ t₁.slen = t₀.slen ∧
      t₁.llen = t₀.llen ∧ t₁.errcode = t₀.errcode ∧
      t₁.x = s.x ∧ t₁.y = s.y ∧ t₁.key = s.key ∧ t₁.wSel = s.wSel ∧ t₁.rounds = s.rounds ∧ t₁.keylen = s.keylen

/-- 70_reset_and_hazards.md R182: a pending command completes, unless a reset discards it or an illegal access ends the run
(log entries 1, 2 and 7). -/
def Obligations.PendingCommandCompletes : Prop :=
  ∀ s : State, s.eng ≠ .idle → (∀ u ∈ s.agenda, u.legal s.config = true ∧ u.resets s.config = false) →
    ∃ k t, k ≤ s.agenda.length + 1 ∧ Host.Core.run Sys2Proof.core k s = .next t ∧ t.eng = .idle ∧ t.done = true

/-! ### Errors -/

/-- 60_exceptions.md R159, R151 to R155: exactly the first error in the order is reported, with nothing else written; with none
the command succeeds. -/
def Obligations.FirstErrorIsReported : Prop :=
  ∀ (i : Instr) (s : State),
    (Ref.firstError i s ≠ 0 → exec i s = .next (Ref.fails (Ref.firstError i s) s)) ∧
    (Ref.firstError i s = 0 → ∃ t, exec i s = .next t ∧ t.errcode = s.errcode ∧ t.eng = .idle ∧ t.done = true) ∧
    (∀ c, s.eng = .busy c → Ref.illegalWord c → engineTurn s = .next (Ref.fails 6 s))

/-- 60_exceptions.md R158: a command that fails writes ERRCODE, BUSY and DONE and nothing else. -/
def Obligations.FailedCommandWritesOnlyStatus : Prop :=
  ∀ s t : State, s.eng ≠ .idle → s.errcode = 0 → engineTurn s = .next t → t.errcode ≠ 0 → t = Ref.fails t.errcode s

/-- 60_exceptions.md R161: ERRCODE changes only at a completion, at an acceptance (to 0) or at a reset (to 0). -/
def Obligations.ErrcodeKeepsItsValue : Prop :=
  ∀ s t : State, step s = .next t → t.errcode ≠ s.errcode →
    (s.eng ≠ .idle ∧ Ref.engineMoves s) ∨
    (s.eng = .idle ∧ t.errcode = 0 ∧ ∃ a d rest, s.agenda = .host a :: rest ∧ a.addr = s.config.base + 0x10 ∧ a.kind = .write d) ∨
    (t.errcode = 0 ∧ ∃ u rest, s.agenda = u :: rest ∧ u.resets s.config = true)

/-- 60_exceptions.md R162: OVR, once set, stays 1 until a host writes 1 to STATUS bit 2 or a reset. -/
def Obligations.OvrStaysUntilCleared : Prop :=
  ∀ s t : State, step s = .next t → s.ovr = true → t.ovr = false →
    ∃ u rest, s.agenda = u :: rest ∧ (u.resets s.config = true ∨
      ∃ a d, u = .host a ∧ a.addr = s.config.base + 0x0C ∧ a.kind = .write d ∧ d.getLsbD 2 = true)

/-! ### Word primitives -/

/-- 41_word_arithmetic.md R99, R100: add and sub of the low w bits, over the integers. -/
def Obligations.AddAndSubAreModular : Prop :=
  ∀ (w : Width) (x y : Slot),
    (addW (lowW w x) (lowW w y)).toNat = (x.toNat + y.toNat) % 2 ^ w.bits ∧
    (subW (lowW w x) (lowW w y)).toNat = Ref.sub w.bits x.toNat y.toNat

/-- 41_word_arithmetic.md R103, "the bitwise reading is [from general knowledge, not in source]" (log entry 14): bit k of xor is 1
exactly when bits k of the two low words differ. -/
def Obligations.XorIsBitwise : Prop :=
  ∀ (w : Width) (x y : Slot) (k : Nat),
    (xorW (lowW w x) (lowW w y)).getLsbD k = (decide (k < w.bits) && (x.getLsbD k != y.getLsbD k))

/-- 41_word_arithmetic.md R101, R102: the rotations are the formulas, whose two terms have no bits in common. -/
def Obligations.RotationsFollowTheirFormulas : Prop :=
  ∀ (w : Width) (x : Slot) (n : Nat),
    (rotlW (lowW w x) n).toNat = Ref.rotl w.bits x.toNat n ∧
    (rotrW (lowW w x) n).toNat = Ref.rotr w.bits x.toNat n ∧
    rotlW (lowW w x) 0 = lowW w x ∧ rotlW (lowW w x) n = rotlW (lowW w x) (n % w.bits) ∧
    (n % w.bits ≠ 0 →
      ((x.toNat % 2 ^ w.bits * 2 ^ (n % w.bits)) % 2 ^ w.bits) &&& (x.toNat % 2 ^ w.bits / 2 ^ (w.bits - n % w.bits)) = 0)

/-- 41_word_arithmetic.md R107: the seven laws of the primitives (the spec's derivation from R99 to R106). -/
def Obligations.PrimitiveLaws : Prop :=
  ∀ (w : Width) (x y : Word w) (n m : Nat),
    (subW (addW x y) y = x ∧ addW (subW x y) y = x) ∧
    (rotlW x 0 = x ∧ rotlW x w.bits = x) ∧
    (rotrW (rotlW x n) n = x ∧ rotlW (rotrW x n) n = x) ∧
    (rotlW x n = rotlW x (n % w.bits) ∧ rotlW x n = rotrW x ((w.bits - n % w.bits) % w.bits)) ∧
    rotlW (rotlW x n) m = rotlW x (n + m) ∧
    ((∀ ws : List (Word w), bytesToWords w (wordsToBytes ws) = .ok ws) ∧
      ∀ bs ws, bytesToWords w bs = .ok ws → wordsToBytes ws = bs) ∧
    xorW (xorW x y) y = x

/-- 41_word_arithmetic.md R104: packing fails exactly on partial words, and word j is the little-endian sum of its bytes. -/
def Obligations.PackingIsLittleEndian : Prop :=
  ∀ (w : Width) (bs : List Byte),
    (bs.length % w.bytes ≠ 0 → bytesToWords w bs = .error .lengthError) ∧
    (bs.length % w.bytes = 0 → ∃ ws, bytesToWords w bs = .ok ws ∧ ws.length = bs.length / w.bytes ∧
      ∀ j (h : j < ws.length), ws[j].toNat = Ref.leSum w.bytes j fun n => (bs.getD n 0).toNat)

/-- 41_word_arithmetic.md R105: key packing never fails; it gives `max(1, ceil(b/u))` words, the last one zero-padded. -/
def Obligations.KeyPackingPadsWithZeros : Prop :=
  ∀ (w : Width) (bs : List Byte), ∃ ws, keyWords w bs = .ok ws ∧ ws.length = Ref.keyWordCount w.bytes bs.length ∧
    ∀ j (h : j < ws.length), ws[j].toNat = Ref.keyWord w.bytes bs.length j fun n => (bs.getD n 0).toNat

/-- 41_word_arithmetic.md R106: byte `j*u + k` of the unpacked words is `(words[j] div 2^(8k)) mod 256`. -/
def Obligations.UnpackingGivesTheBytes : Prop :=
  ∀ (w : Width) (ws : List (Word w)),
    (wordsToBytes ws).length = ws.length * w.bytes ∧
    ∀ j k, j < ws.length → k < w.bytes →
      ((wordsToBytes ws).getD (j * w.bytes + k) 0).toNat = (ws.getD j 0).toNat / 2 ^ (8 * k) % 256

/-! ### Primitive commands -/

/-- 41_word_arithmetic.md R108: ADD. -/
def Obligations.AddWritesTheSum : Prop :=
  encode .add = 0x10 ∧ ∀ s : State,
    (Ref.widthOk s → exec .add s = .next (Ref.ends { s with
      z := BitVec.ofNat 128 (Ref.add (Ref.bits s) (s.x.toNat % 2 ^ Ref.bits s) (s.y.toNat % 2 ^ Ref.bits s)) })) ∧
    (¬ Ref.widthOk s → exec .add s = .next (Ref.fails 1 s))

/-- 41_word_arithmetic.md R109: SUB. -/
def Obligations.SubWritesTheDifference : Prop :=
  encode .sub = 0x11 ∧ ∀ s : State,
    (Ref.widthOk s → exec .sub s = .next (Ref.ends { s with
      z := BitVec.ofNat 128 (Ref.sub (Ref.bits s) (s.x.toNat % 2 ^ Ref.bits s) (s.y.toNat % 2 ^ Ref.bits s)) })) ∧
    (¬ Ref.widthOk s → exec .sub s = .next (Ref.fails 1 s))

/-- 41_word_arithmetic.md R110: ROTL, by the whole of Y mod w. -/
def Obligations.RotlWritesTheRotation : Prop :=
  encode .rotl = 0x12 ∧ ∀ s : State,
    (Ref.widthOk s → exec .rotl s = .next (Ref.ends { s with
      z := BitVec.ofNat 128 (Ref.rotl (Ref.bits s) s.x.toNat (s.y.toNat % Ref.bits s)) })) ∧
    (¬ Ref.widthOk s → exec .rotl s = .next (Ref.fails 1 s))

/-- 41_word_arithmetic.md R111: ROTR, by the whole of Y mod w. -/
def Obligations.RotrWritesTheRotation : Prop :=
  encode .rotr = 0x13 ∧ ∀ s : State,
    (Ref.widthOk s → exec .rotr s = .next (Ref.ends { s with
      z := BitVec.ofNat 128 (Ref.rotr (Ref.bits s) s.x.toNat (s.y.toNat % Ref.bits s)) })) ∧
    (¬ Ref.widthOk s → exec .rotr s = .next (Ref.fails 1 s))

/-- 41_word_arithmetic.md R112: XOR, in the bitwise reading of R103 (log entry 14). -/
def Obligations.XorWritesTheExclusiveOr : Prop :=
  encode .xor = 0x14 ∧ ∀ s : State,
    (Ref.widthOk s → exec .xor s = .next (Ref.ends { s with
      z := BitVec.ofNat 128 (Ref.xor (Ref.bits s) s.x.toNat s.y.toNat) })) ∧
    (¬ Ref.widthOk s → exec .xor s = .next (Ref.fails 1 s))

/-- 41_word_arithmetic.md R113: PACKKEY, its results, its errors in order, and its frame. -/
def Obligations.PackkeyPacksTheKey : Prop :=
  encode .packkey = 0x06 ∧ ∀ s : State,
    (¬ Ref.widthOk s → exec .packkey s = .next (Ref.fails 1 s)) ∧
    (Ref.widthOk s → s.keylen.toNat > 255 → exec .packkey s = .next (Ref.fails 2 s)) ∧
    (Ref.widthOk s → s.keylen.toNat ≤ 255 → s.keylen.toNat % Ref.bytes s ≠ 0 → exec .packkey s = .next (Ref.fails 3 s)) ∧
    (Ref.widthOk s → s.keylen.toNat ≤ 255 → s.keylen.toNat % Ref.bytes s = 0 →
      ∃ t, exec .packkey s = .next t ∧
        t = Ref.ends { s with lArr := t.lArr, llen := BitVec.ofNat 9 (s.keylen.toNat / Ref.bytes s) } ∧
        ∀ j : Fin 256, t.lArr[j] = if j.val < s.keylen.toNat / Ref.bytes s
          then BitVec.ofNat 128 (Ref.leSum (Ref.bytes s) j (Ref.keyByte s)) else s.lArr[j])

/-- 43_magic_constants.md R136: MAGICP. -/
def Obligations.MagicpWritesP : Prop :=
  encode .magicp = 0x04 ∧ ∀ s : State,
    (Ref.widthOk s → exec .magicp s = .next (Ref.ends { s with z := BitVec.ofNat 128 (Ref.tableP s.wSel.toNat) })) ∧
    (¬ Ref.widthOk s → exec .magicp s = .next (Ref.fails 1 s))

/-- 43_magic_constants.md R137: MAGICQ. -/
def Obligations.MagicqWritesQ : Prop :=
  encode .magicq = 0x05 ∧ ∀ s : State,
    (Ref.widthOk s → exec .magicq s = .next (Ref.ends { s with z := BitVec.ofNat 128 (Ref.tableQ s.wSel.toNat) })) ∧
    (¬ Ref.widthOk s → exec .magicq s = .next (Ref.fails 1 s))

/-- 43_magic_constants.md R132: `P_w` and `Q_w` are the odd integers nearest to `(e - 2) * 2^w` and `(phi - 1) * 2^w`, and equal
the floor with bit 0 set. -/
def Obligations.MagicConstantsAreTheNearestOddIntegers : Prop :=
  ∀ w : Width,
    let p : ℝ := (Real.exp 1 - 2) * 2 ^ w.bits
    let q : ℝ := ((1 + Real.sqrt 5) / 2 - 1) * 2 ^ w.bits
    (0 < p ∧ p < 2 ^ w.bits - 1 ∧ (magicP w).toNat % 2 = 1 ∧ (magicP w).toNat = ⌊p⌋₊ ||| 1 ∧
      ∀ m : ℤ, m % 2 = 1 → |((magicP w).toNat : ℝ) - p| ≤ |(m : ℝ) - p|) ∧
    (0 < q ∧ q < 2 ^ w.bits - 1 ∧ (magicQ w).toNat % 2 = 1 ∧ (magicQ w).toNat = ⌊q⌋₊ ||| 1 ∧
      ∀ m : ℤ, m % 2 = 1 → |((magicQ w).toNat : ℝ) - q| ≤ |(m : ℝ) - q|)

/-! ### Key schedule -/

/-- 42_key_schedule.md R121: the initial S by its recurrence; and in the closed form that R121 marks as the spec's own inference,
"[derived: from rule R121 and 41_word_arithmetic.md rule R99]". -/
def Obligations.InitialScheduleIsArithmeticProgression : Prop :=
  ∀ (w : Width) (n : Nat), (initS n (magicP w) (magicQ w)).length = n ∧
    (0 < n → (initS n (magicP w) (magicQ w)).getD 0 0 = magicP w) ∧
    (∀ i, i + 1 < n → (initS n (magicP w) (magicQ w)).getD (i + 1) 0 =
      addW ((initS n (magicP w) (magicQ w)).getD i 0) (magicQ w)) ∧
    ∀ i < n, ((initS n (magicP w) (magicQ w)).getD i 0).toNat =
      ((magicP w).toNat + i * (magicQ w).toNat) % 2 ^ w.bits

/-- 42_key_schedule.md R120 to R124: SETKEY commits the words the schedule of the spec computes over the integers (the initial S in
the closed form R121 derives from its recurrence and R99), their numbers, and nothing else. -/
def Obligations.SetkeyDerivesTheExpandedKey : Prop :=
  encode .setkey = 0x01 ∧ ∀ s : State,
    (¬ Ref.widthOk s → exec .setkey s = .next (Ref.fails 1 s)) ∧
    (Ref.widthOk s → s.rounds.toNat > 255 ∨ s.keylen.toNat > 255 → exec .setkey s = .next (Ref.fails 2 s)) ∧
    (Ref.widthOk s → s.rounds.toNat ≤ 255 → s.keylen.toNat ≤ 255 →
      let n := 2 * s.rounds.toNat + 2
      let c := Ref.keyWordCount (Ref.bytes s) s.keylen.toNat
      ∃ t, exec .setkey s = .next t ∧
        t = Ref.ends { s with sArr := t.sArr, lArr := t.lArr, slen := BitVec.ofNat 10 n, llen := BitVec.ofNat 9 c } ∧
        (∀ i : Fin 512, t.sArr[i] = if i.val < n then BitVec.ofNat 128 ((Ref.schedule s).s i) else s.sArr[i]) ∧
        ∀ j : Fin 256, t.lArr[j] = if j.val < c then BitVec.ofNat 128 ((Ref.schedule s).l j) else s.lArr[j])

/-- 42_key_schedule.md R125: what SETKEY commits depends only on w, r, b and the first b key bytes (the spec's derivation from
R120 to R124). -/
def Obligations.SetkeyDependsOnlyOnKeyAndParameters : Prop :=
  ∀ s₁ s₂ t₁ t₂ : State, Ref.widthOk s₁ → s₁.rounds.toNat ≤ 255 → s₁.keylen.toNat ≤ 255 →
    Ref.widthOk s₂ → s₂.wSel = s₁.wSel → s₂.rounds = s₁.rounds → s₂.keylen = s₁.keylen →
    (∀ n < s₁.keylen.toNat, Ref.keyByte s₂ n = Ref.keyByte s₁ n) →
    exec .setkey s₁ = .next t₁ → exec .setkey s₂ = .next t₂ →
    t₁.slen = t₂.slen ∧ t₁.llen = t₂.llen ∧
    (∀ i : Fin 512, i.val < t₁.slen.toNat → t₁.sArr[i] = t₂.sArr[i]) ∧
    ∀ j : Fin 256, j.val < t₁.llen.toNat → t₁.lArr[j] = t₂.lArr[j]

/-! ### Cipher -/

/-- 44_cipher_engine.md R139: ENCRYPT is the algorithm over the integers, with the frame; on an error A and B are unchanged.
Its xor is the bitwise reading of R103 (log entry 14). -/
def Obligations.EncryptComputesTheCipher : Prop :=
  encode .encrypt = 0x02 ∧ ∀ s : State,
    (Ref.widthOk s → Ref.cipherOk s →
      let p := Ref.encrypt (Ref.bits s) (Ref.keySlot s) s.a.toNat s.b.toNat s.rounds.toNat
      exec .encrypt s = .next (Ref.ends { s with a := BitVec.ofNat 128 p.1, b := BitVec.ofNat 128 p.2 })) ∧
    (¬ (Ref.widthOk s ∧ Ref.cipherOk s) →
      exec .encrypt s = .next (Ref.fails (Ref.firstError .encrypt s) s) ∧ Ref.firstError .encrypt s ≠ 0)

/-- 44_cipher_engine.md R140: DECRYPT is the algorithm over the integers, with the frame; on an error A and B are unchanged.
Its xor is the bitwise reading of R103 (log entry 14). -/
def Obligations.DecryptComputesTheInverseCipher : Prop :=
  encode .decrypt = 0x03 ∧ ∀ s : State,
    (Ref.widthOk s → Ref.cipherOk s →
      let p := Ref.decrypt (Ref.bits s) (Ref.keySlot s) s.rounds.toNat s.a.toNat s.b.toNat
      exec .decrypt s = .next (Ref.ends { s with a := BitVec.ofNat 128 p.1, b := BitVec.ofNat 128 p.2 })) ∧
    (¬ (Ref.widthOk s ∧ Ref.cipherOk s) →
      exec .decrypt s = .next (Ref.fails (Ref.firstError .decrypt s) s) ∧ Ref.firstError .decrypt s ≠ 0)

/-- 44_cipher_engine.md R141: the checks of ENCRYPT and DECRYPT in their order. -/
def Obligations.CipherInputsAreChecked : Prop :=
  ∀ (i : Instr) (s : State), i = .encrypt ∨ i = .decrypt →
    (¬ Ref.widthOk s → exec i s = .next (Ref.fails 1 s)) ∧
    (Ref.widthOk s → s.rounds.toNat > 255 → exec i s = .next (Ref.fails 2 s)) ∧
    (Ref.widthOk s → s.rounds.toNat ≤ 255 → s.slen.toNat ≠ 2 * s.rounds.toNat + 2 → exec i s = .next (Ref.fails 5 s)) ∧
    (Ref.widthOk s → s.rounds.toNat ≤ 255 → s.slen.toNat = 2 * s.rounds.toNat + 2 → Ref.blockTooWide s →
      exec i s = .next (Ref.fails 4 s)) ∧
    (Ref.widthOk s → Ref.cipherOk s → ∃ t, exec i s = .next t ∧ t.errcode = s.errcode)

/-- 44_cipher_engine.md R142: ENCRYPT then DECRYPT, and DECRYPT then ENCRYPT, leave A and B as they were (the spec's
derivation from R139, R140, R107). -/
def Obligations.DecryptInvertsEncrypt : Prop :=
  ∀ s : State, Ref.widthOk s → Ref.cipherOk s →
    (∃ t u, exec .encrypt s = .next t ∧ exec .decrypt t = .next u ∧ u = Ref.ends s) ∧
    (∃ t u, exec .decrypt s = .next t ∧ exec .encrypt t = .next u ∧ u = Ref.ends s)

/-- 44_cipher_engine.md R143: with r = 0 ENCRYPT is the two whitening additions (the spec's derivation from R139). -/
def Obligations.ZeroRoundsOnlyWhiten : Prop :=
  ∀ s : State, Ref.widthOk s → Ref.cipherOk s → s.rounds = 0 →
    exec .encrypt s = .next (Ref.ends { s with
      a := BitVec.ofNat 128 (Ref.add (Ref.bits s) s.a.toNat (Ref.keySlot s 0))
      b := BitVec.ofNat 128 (Ref.add (Ref.bits s) s.b.toNat (Ref.keySlot s 1)) })

/-! ### All commands -/

/-- 40_command_control.md R95: every word a successful command writes is a w-bit word zero-extended. -/
def Obligations.ResultsAreZeroExtended : Prop :=
  ∀ (i : Instr) (s t : State), Ref.firstError i s = 0 → exec i s = .next t →
    (i ∈ [Instr.add, .sub, .rotl, .rotr, .xor, .magicp, .magicq] → t.z.toNat < 2 ^ Ref.bits s) ∧
    (Ref.isCipher i → t.a.toNat < 2 ^ Ref.bits s ∧ t.b.toNat < 2 ^ Ref.bits s) ∧
    (i = .setkey → ∀ k : Fin 512, k.val < t.slen.toNat → t.sArr[k].toNat < 2 ^ Ref.bits s) ∧
    (Ref.usesKeyLen i → ∀ k : Fin 256, k.val < t.llen.toNat → t.lArr[k].toNat < 2 ^ Ref.bits s)

/-- 30_encoding.md R76: a command leaves every register of the aperture but STATUS and its destinations as it reads, the
interrupt enable included. -/
def Obligations.CommandsWriteOnlyTheirDestinations : Prop :=
  ∀ (i : Instr) (s t : State) (off : Nat), exec i s = .next t → Ref.offset off → off ≠ 0x0C → ¬ Ref.writesOffset i off →
    readReg t (regAt off) = readReg s (regAt off)

/-- 10_state.md R32: the block never writes KEY: it changes only by a host's write to the KEY registers, or a reset. -/
def Obligations.KeyChangesOnlyByHostWriteOrReset : Prop :=
  ∀ s t : State, step s = .next t → t.key ≠ s.key →
    ∃ u rest, s.agenda = u :: rest ∧ (u.resets s.config = true ∨
      ∃ a d, u = .host a ∧ a.kind = .write d ∧ s.eng = .idle ∧
        s.config.base + 0x100 ≤ a.addr ∧ a.addr ≤ s.config.base + 0x1FC)

/-! ### The host interface -/

/-- 20_memory.md R53: an access in the aperture that is not an aligned 4-byte one changes nothing, reads 0 and gets ERROR; an
aligned 4-byte one does not get ERROR. -/
def Obligations.IllegalAccessGetsError : Prop :=
  ∀ (s : State) (a : Access), a.inAperture s.config = true →
    (a.size ≠ .four ∨ (a.addr - s.config.base) % 4 ≠ 0 → busAccess a s = (s, some (.error 0))) ∧
    (a.size = .four → (a.addr - s.config.base) % 4 = 0 → ∀ d, (busAccess a s).2 ≠ some (.error d))

/-- 20_memory.md R54: the ERROR response is the only thing that stops the machine (log entry 7); no step is refused. -/
def Obligations.OnlyBusErrorsStopTheMachine : Prop :=
  ∀ s : State, (∀ r, step s ≠ .refused r) ∧
    ∀ f, step s = .fault f ↔ f = .busError ∧ ∃ a rest, s.agenda = .host a :: rest ∧ a.inAperture s.config = true ∧
      (a.size ≠ .four ∨ (a.addr - s.config.base) % 4 ≠ 0)

/-- 20_memory.md R51: an access outside the aperture does not reach the block (log entry 8). -/
def Obligations.AccessOutsideTheApertureHasNoEffect : Prop :=
  ∀ (s : State) (a : Access), a.addr < s.config.base ∨ s.config.base + 0x3FFF < a.addr → hostTurn a s = .next s

/-- 20_memory.md R59, R60 and R58: where the lanes of S and L and the KEY registers lie. -/
def Obligations.ArrayWindowsOfTheMap : Prop :=
  (∀ (i : Fin 512) (l : Fin 4), regAt (0x2000 + 16 * i + 4 * l) = .sSlot i l) ∧
  (∀ (j : Fin 256) (l : Fin 4), regAt (0x1000 + 16 * j + 4 * l) = .lSlot j l ∧
    ∀ (s : State) (d : BusWord), hostTurn (Ref.writeAt s (0x1000 + 16 * j + 4 * l) d) s =
      .next { s with busOut := some .writeOkay }) ∧
  ∀ k : Fin 64, regAt (0x100 + 4 * k) = .key k

/-- 20_memory.md R58: a KEY register is its four key bytes, KEY[4k] in the low byte. -/
def Obligations.KeyRegisterHoldsFourBytes : Prop :=
  ∀ (s : State) (k : Fin 64) (d : BusWord),
    (∀ m : Fin 4, busByte s (0x100 + (4 * k + m)) = s.key.toList.getD (4 * k + m) 0) ∧
    (∀ m : Fin 4, (readReg s (.key k)).extractLsb' (8 * m) 8 = s.key.toList.getD (4 * k + m) 0) ∧
    (s.eng = .idle → ∃ t, hostTurn (Ref.writeAt s (0x100 + 4 * k) d) s = .next t ∧
      t = { s with key := t.key, busOut := some .writeOkay } ∧
      ∀ n : Fin 256, t.key[n] = if n.val / 4 = k.val then d.extractLsb' (8 * (n.val % 4)) 8 else s.key[n])

/-- 20_memory.md R56: lane l of a 128-bit register or slot lies at its first offset + 4*l and reads as bits [32l+31:32l]; writing it
(where the register is writable, the block idle) replaces those bits and leaves the other lanes. -/
def Obligations.LanesAreIndependent : Prop :=
  ∀ (s : State) (o : Nat) (v : Slot) (l : Fin 4), Ref.holds s o v →
    (readReg s (regAt (o + 4 * l))).toNat = v.toNat / 2 ^ (32 * l.val) % 2 ^ 32 ∧
    ∀ d : BusWord, s.eng = .idle → Ref.lockedOffset o →
      ∃ t v', hostTurn (Ref.writeAt s (o + 4 * l) d) s = .next t ∧ Ref.holds t o v' ∧
        ∀ m : Fin 4, v'.toNat / 2 ^ (32 * m.val) % 2 ^ 32 = if m = l then d.toNat else v.toNat / 2 ^ (32 * m.val) % 2 ^ 32

/-- 10_state.md R24 to R26, R29, R30, 20_memory.md R59 and R61: a host write to a writable register of an idle block stores its
implemented bits (reserved bits read 0) and changes no other register. -/
def Obligations.WriteThenReadBack : Prop :=
  ∀ (s : State) (off off' : Nat) (d : BusWord), s.eng = .idle → Ref.offset off → Ref.offset off' →
    Ref.lockedOffset off → off ≠ 0x10 →
    ∃ t, hostTurn (Ref.writeAt s off d) s = .next t ∧
      readReg t (regAt off') =
        if off' ≠ off then readReg s (regAt off')
        else if off = 0x14 then d &&& 0x3FF07
        else if off = 0x18 then d &&& 0x1FF
        else if off = 0x1C then d &&& 0x3FF
        else d

/-- 20_memory.md R61 and R62: reserved offsets read 0; they and the read-only registers ignore writes with OKAY, busy or not;
CMD reads 0. -/
def Obligations.ReservedAndReadOnlyIgnoreWrites : Prop :=
  ∀ (s : State) (off : Nat) (d : BusWord), Ref.offset off →
    (Ref.reservedOffset off ∨ Ref.readOnlyOffset off → hostTurn (Ref.writeAt s off d) s = .next { s with busOut := some .writeOkay }) ∧
    (Ref.reservedOffset off ∨ off = 0x10 → hostTurn (Ref.readAt s off) s = .next { s with busOut := some (.readOkay 0) })

/-- 20_memory.md R63: a read changes no state of the block (only the model's draw counter and the response). -/
def Obligations.ReadsChangeNoState : Prop :=
  ∀ (s : State) (off : Nat), Ref.offset off → ∃ t, hostTurn (Ref.readAt s off) s = .next t ∧
    t = { s with draws := t.draws, busOut := t.busOut }

/-- 20_memory.md R65: while busy a write to a locked register is dropped and sets OVR; writes to CTRL (a soft reset among them) and
STATUS are performed. -/
def Obligations.BusyWindowDropsLockedWrites : Prop :=
  ∀ (s : State) (off : Nat) (d : BusWord), s.eng ≠ .idle → Ref.offset off →
    (Ref.lockedOffset off → hostTurn (Ref.writeAt s off d) s = .next { s with ovr := true, busOut := some .writeOkay }) ∧
    (d.getLsbD 1 = false → hostTurn (Ref.writeAt s 0x08 d) s = .next { s with ie := d.getLsbD 0, busOut := some .writeOkay }) ∧
    (d.getLsbD 1 = true → ∃ t, hostTurn (Ref.writeAt s 0x08 d) s = .next t ∧ Ref.atReset t) ∧
    hostTurn (Ref.writeAt s 0x0C d) s = .next { s with
      done := s.done && !d.getLsbD 1, ovr := s.ovr && !d.getLsbD 2, busOut := some .writeOkay }

/-- 20_memory.md R66: a busy-window read of a destination of the pending command takes the next free draw; a read of any other
register, or while idle, returns its current value. -/
def Obligations.BusyWindowReadsOfDestinationsAreFree : Prop :=
  ∀ (s : State) (off : Nat), Ref.offset off →
    (∀ c i, s.eng = .busy c → decode c = .ok i → Ref.writesOffset i off →
      hostTurn (Ref.readAt s off) s =
        .next { s with draws := s.draws + 1, busOut := some (.readOkay (Config.freeRead s.draws)) }) ∧
    ((s.eng = .idle ∨ ∃ c, s.eng = .busy c ∧ ∀ i, decode c = .ok i → ¬ Ref.writesOffset i off) →
      hostTurn (Ref.readAt s off) s = .next { s with busOut := some (.readOkay (readReg s (regAt off))) })

/-- 10_state.md R23: the bits of STATUS and its W1C writes. -/
def Obligations.StatusBitsAndWriteOneToClear : Prop :=
  ∀ (s : State) (d : BusWord),
    (readReg s (regAt 0x0C)).toNat = (if s.eng = .idle then 0 else 1) + 2 * s.done.toNat + 4 * s.ovr.toNat + 256 * s.errcode.toNat ∧
    hostTurn (Ref.writeAt s 0x0C d) s = .next { s with
      done := s.done && !d.getLsbD 1, ovr := s.ovr && !d.getLsbD 2, busOut := some .writeOkay }

/-- 10_state.md R22, R38: CTRL reads IE alone, 0 after reset; a write without SRST stores IE, one with SRST resets the block, both at
any time; irq is IE and DONE. -/
def Obligations.CtrlHoldsTheInterruptEnable : Prop :=
  readReg State.reset (regAt 0x08) = 0 ∧
  ∀ (s : State) (d : BusWord),
    (readReg s (regAt 0x08)).toNat = s.ie.toNat ∧
    (d.getLsbD 1 = false → hostTurn (Ref.writeAt s 0x08 d) s = .next { s with ie := d.getLsbD 0, busOut := some .writeOkay }) ∧
    (d.getLsbD 1 = true → ∃ t, hostTurn (Ref.writeAt s 0x08 d) s = .next t ∧ Ref.atReset t) ∧
    irq s = (s.ie && s.done)

/-- 60_exceptions.md R163: irq rises only at a completion (failed or not) or when the host enables it, and every completion
with IE = 1 raises it. -/
def Obligations.IrqReportsCompletion : Prop :=
  (∀ s t : State, step s = .next t → irq s = false → irq t = true →
    (s.eng ≠ .idle ∧ Ref.engineMoves s) ∨
      ∃ a d rest, s.agenda = .host a :: rest ∧ a.addr = s.config.base + 0x08 ∧ a.kind = .write d ∧ d.getLsbD 0 = true) ∧
  ∀ s t : State, s.eng ≠ .idle → engineTurn s = .next t → irq t = s.ie

/-- 20_memory.md R70: the bytes of a word register or slot on the bus are `words_to_bytes` of its word, then the bits above w (the
spec's derivation from R56, R57, R106). -/
def Obligations.BusViewIsWordsToBytes : Prop :=
  ∀ (w : Width) (s : State) (o : Nat) (v : Slot) (k : Nat), Ref.holds s o v →
    (k < w.bytes → busByte s (o + k) = (wordsToBytes [lowW w v]).getD k 0) ∧
    (w.bytes ≤ k → k < 16 → busByte s (o + k) = v.extractLsb' (8 * k) 8)

/-! ### Reset -/

/-- 70_reset_and_hazards.md R171, R173 and 10_state.md R20 to R32: the machine after reset. That a step leaves it as it is rests on the
model's choices: no turn to come at reset (log entry 1), and the engine's turn when none is left (log entry 2). -/
def Obligations.ResetLeavesTheBlockIdle : Prop :=
  Ref.atReset State.reset ∧ readReg State.reset .id = 0x52433501 ∧ readReg State.reset .cap = 0x00FFFF1F ∧
    irq State.reset = false ∧ step State.reset = .next State.reset

/-- 70_reset_and_hazards.md R170, R171: a hard reset and a soft reset have the same effect at any time, also while busy. The model's
choices in it: equal S and L after the two, by equal draw numbers (log entry 5; R172 leaves each slot unspecified), and the kept
response (log entry 6), config (log entry 10) and agenda (log entry 13). -/
def Obligations.ResetDiscardsThePendingCommand : Prop :=
  ∀ (s : State) (d : BusWord), d.getLsbD 1 = true →
    ∃ t u, runTurn .hardReset s = .next t ∧ hostTurn (Ref.writeAt s 0x08 d) s = .next u ∧
      u = { t with busOut := some .writeOkay } ∧ Ref.atReset t ∧ t.config = s.config ∧ t.agenda = s.agenda ∧
      irq t = false ∧ engineTurn t = .next t

/-! ### Invariant -/

/-- Every step keeps the invariant. -/
def Obligations.StepKeepsTheInvariant : Prop := ∀ s t : State, s.Inv → step s = .next t → t.Inv

/-- The invariant holds at reset. -/
def Obligations.ResetMeetsTheInvariant : Prop := State.reset.Inv
end

