-- ==== Sys2Proof/Laws/State.lean ====
section
/-! SUPPORT. One lemma per field per named update of State, each true by rfl, so that no later proof unfolds a record update. -/

namespace Sys2Proof.Machine

/-! ### accept -/

@[simp] theorem accept_config (c : CommandWord) (s : State) : (accept c s).config = s.config := rfl
@[simp] theorem accept_ie (c : CommandWord) (s : State) : (accept c s).ie = s.ie := rfl
@[simp] theorem accept_done (c : CommandWord) (s : State) : (accept c s).done = false := rfl
@[simp] theorem accept_ovr (c : CommandWord) (s : State) : (accept c s).ovr = s.ovr := rfl
@[simp] theorem accept_errcode (c : CommandWord) (s : State) : (accept c s).errcode = 0 := rfl
@[simp] theorem accept_wSel (c : CommandWord) (s : State) : (accept c s).wSel = s.wSel := rfl
@[simp] theorem accept_rounds (c : CommandWord) (s : State) : (accept c s).rounds = s.rounds := rfl
@[simp] theorem accept_keylen (c : CommandWord) (s : State) : (accept c s).keylen = s.keylen := rfl
@[simp] theorem accept_slen (c : CommandWord) (s : State) : (accept c s).slen = s.slen := rfl
@[simp] theorem accept_llen (c : CommandWord) (s : State) : (accept c s).llen = s.llen := rfl
@[simp] theorem accept_a (c : CommandWord) (s : State) : (accept c s).a = s.a := rfl
@[simp] theorem accept_b (c : CommandWord) (s : State) : (accept c s).b = s.b := rfl
@[simp] theorem accept_x (c : CommandWord) (s : State) : (accept c s).x = s.x := rfl
@[simp] theorem accept_y (c : CommandWord) (s : State) : (accept c s).y = s.y := rfl
@[simp] theorem accept_z (c : CommandWord) (s : State) : (accept c s).z = s.z := rfl
@[simp] theorem accept_key (c : CommandWord) (s : State) : (accept c s).key = s.key := rfl
@[simp] theorem accept_sArr (c : CommandWord) (s : State) : (accept c s).sArr = s.sArr := rfl
@[simp] theorem accept_lArr (c : CommandWord) (s : State) : (accept c s).lArr = s.lArr := rfl
@[simp] theorem accept_eng (c : CommandWord) (s : State) : (accept c s).eng = .busy c := rfl
@[simp] theorem accept_draws (c : CommandWord) (s : State) : (accept c s).draws = s.draws := rfl
@[simp] theorem accept_agenda (c : CommandWord) (s : State) : (accept c s).agenda = s.agenda := rfl
@[simp] theorem accept_busOut (c : CommandWord) (s : State) : (accept c s).busOut = s.busOut := rfl

/-! ### finish -/

@[simp] theorem finish_config (s : State) : (finish s).config = s.config := rfl
@[simp] theorem finish_ie (s : State) : (finish s).ie = s.ie := rfl
@[simp] theorem finish_done (s : State) : (finish s).done = true := rfl
@[simp] theorem finish_ovr (s : State) : (finish s).ovr = s.ovr := rfl
@[simp] theorem finish_errcode (s : State) : (finish s).errcode = s.errcode := rfl
@[simp] theorem finish_wSel (s : State) : (finish s).wSel = s.wSel := rfl
@[simp] theorem finish_rounds (s : State) : (finish s).rounds = s.rounds := rfl
@[simp] theorem finish_keylen (s : State) : (finish s).keylen = s.keylen := rfl
@[simp] theorem finish_slen (s : State) : (finish s).slen = s.slen := rfl
@[simp] theorem finish_llen (s : State) : (finish s).llen = s.llen := rfl
@[simp] theorem finish_a (s : State) : (finish s).a = s.a := rfl
@[simp] theorem finish_b (s : State) : (finish s).b = s.b := rfl
@[simp] theorem finish_x (s : State) : (finish s).x = s.x := rfl
@[simp] theorem finish_y (s : State) : (finish s).y = s.y := rfl
@[simp] theorem finish_z (s : State) : (finish s).z = s.z := rfl
@[simp] theorem finish_key (s : State) : (finish s).key = s.key := rfl
@[simp] theorem finish_sArr (s : State) : (finish s).sArr = s.sArr := rfl
@[simp] theorem finish_lArr (s : State) : (finish s).lArr = s.lArr := rfl
@[simp] theorem finish_eng (s : State) : (finish s).eng = .idle := rfl
@[simp] theorem finish_draws (s : State) : (finish s).draws = s.draws := rfl
@[simp] theorem finish_agenda (s : State) : (finish s).agenda = s.agenda := rfl
@[simp] theorem finish_busOut (s : State) : (finish s).busOut = s.busOut := rfl

/-! ### failWith -/

@[simp] theorem failWith_config (e : CmdError) (s : State) : (failWith e s).config = s.config := rfl
@[simp] theorem failWith_ie (e : CmdError) (s : State) : (failWith e s).ie = s.ie := rfl
@[simp] theorem failWith_done (e : CmdError) (s : State) : (failWith e s).done = true := rfl
@[simp] theorem failWith_ovr (e : CmdError) (s : State) : (failWith e s).ovr = s.ovr := rfl
@[simp] theorem failWith_errcode (e : CmdError) (s : State) : (failWith e s).errcode = errorCode e := rfl
@[simp] theorem failWith_wSel (e : CmdError) (s : State) : (failWith e s).wSel = s.wSel := rfl
@[simp] theorem failWith_rounds (e : CmdError) (s : State) : (failWith e s).rounds = s.rounds := rfl
@[simp] theorem failWith_keylen (e : CmdError) (s : State) : (failWith e s).keylen = s.keylen := rfl
@[simp] theorem failWith_slen (e : CmdError) (s : State) : (failWith e s).slen = s.slen := rfl
@[simp] theorem failWith_llen (e : CmdError) (s : State) : (failWith e s).llen = s.llen := rfl
@[simp] theorem failWith_a (e : CmdError) (s : State) : (failWith e s).a = s.a := rfl
@[simp] theorem failWith_b (e : CmdError) (s : State) : (failWith e s).b = s.b := rfl
@[simp] theorem failWith_x (e : CmdError) (s : State) : (failWith e s).x = s.x := rfl
@[simp] theorem failWith_y (e : CmdError) (s : State) : (failWith e s).y = s.y := rfl
@[simp] theorem failWith_z (e : CmdError) (s : State) : (failWith e s).z = s.z := rfl
@[simp] theorem failWith_key (e : CmdError) (s : State) : (failWith e s).key = s.key := rfl
@[simp] theorem failWith_sArr (e : CmdError) (s : State) : (failWith e s).sArr = s.sArr := rfl
@[simp] theorem failWith_lArr (e : CmdError) (s : State) : (failWith e s).lArr = s.lArr := rfl
@[simp] theorem failWith_eng (e : CmdError) (s : State) : (failWith e s).eng = .idle := rfl
@[simp] theorem failWith_draws (e : CmdError) (s : State) : (failWith e s).draws = s.draws := rfl
@[simp] theorem failWith_agenda (e : CmdError) (s : State) : (failWith e s).agenda = s.agenda := rfl
@[simp] theorem failWith_busOut (e : CmdError) (s : State) : (failWith e s).busOut = s.busOut := rfl

/-! ### overrun -/

@[simp] theorem overrun_config (s : State) : (overrun s).config = s.config := rfl
@[simp] theorem overrun_ie (s : State) : (overrun s).ie = s.ie := rfl
@[simp] theorem overrun_done (s : State) : (overrun s).done = s.done := rfl
@[simp] theorem overrun_ovr (s : State) : (overrun s).ovr = true := rfl
@[simp] theorem overrun_errcode (s : State) : (overrun s).errcode = s.errcode := rfl
@[simp] theorem overrun_wSel (s : State) : (overrun s).wSel = s.wSel := rfl
@[simp] theorem overrun_rounds (s : State) : (overrun s).rounds = s.rounds := rfl
@[simp] theorem overrun_keylen (s : State) : (overrun s).keylen = s.keylen := rfl
@[simp] theorem overrun_slen (s : State) : (overrun s).slen = s.slen := rfl
@[simp] theorem overrun_llen (s : State) : (overrun s).llen = s.llen := rfl
@[simp] theorem overrun_a (s : State) : (overrun s).a = s.a := rfl
@[simp] theorem overrun_b (s : State) : (overrun s).b = s.b := rfl
@[simp] theorem overrun_x (s : State) : (overrun s).x = s.x := rfl
@[simp] theorem overrun_y (s : State) : (overrun s).y = s.y := rfl
@[simp] theorem overrun_z (s : State) : (overrun s).z = s.z := rfl
@[simp] theorem overrun_key (s : State) : (overrun s).key = s.key := rfl
@[simp] theorem overrun_sArr (s : State) : (overrun s).sArr = s.sArr := rfl
@[simp] theorem overrun_lArr (s : State) : (overrun s).lArr = s.lArr := rfl
@[simp] theorem overrun_eng (s : State) : (overrun s).eng = s.eng := rfl
@[simp] theorem overrun_draws (s : State) : (overrun s).draws = s.draws := rfl
@[simp] theorem overrun_agenda (s : State) : (overrun s).agenda = s.agenda := rfl
@[simp] theorem overrun_busOut (s : State) : (overrun s).busOut = s.busOut := rfl

/-! ### writeStatus -/

@[simp] theorem writeStatus_config (s : State) (d : BusWord) : (writeStatus s d).config = s.config := rfl
@[simp] theorem writeStatus_ie (s : State) (d : BusWord) : (writeStatus s d).ie = s.ie := rfl
@[simp] theorem writeStatus_done (s : State) (d : BusWord) : (writeStatus s d).done = (s.done && !d.getLsbD 1) := rfl
@[simp] theorem writeStatus_ovr (s : State) (d : BusWord) : (writeStatus s d).ovr = (s.ovr && !d.getLsbD 2) := rfl
@[simp] theorem writeStatus_errcode (s : State) (d : BusWord) : (writeStatus s d).errcode = s.errcode := rfl
@[simp] theorem writeStatus_wSel (s : State) (d : BusWord) : (writeStatus s d).wSel = s.wSel := rfl
@[simp] theorem writeStatus_rounds (s : State) (d : BusWord) : (writeStatus s d).rounds = s.rounds := rfl
@[simp] theorem writeStatus_keylen (s : State) (d : BusWord) : (writeStatus s d).keylen = s.keylen := rfl
@[simp] theorem writeStatus_slen (s : State) (d : BusWord) : (writeStatus s d).slen = s.slen := rfl
@[simp] theorem writeStatus_llen (s : State) (d : BusWord) : (writeStatus s d).llen = s.llen := rfl
@[simp] theorem writeStatus_a (s : State) (d : BusWord) : (writeStatus s d).a = s.a := rfl
@[simp] theorem writeStatus_b (s : State) (d : BusWord) : (writeStatus s d).b = s.b := rfl
@[simp] theorem writeStatus_x (s : State) (d : BusWord) : (writeStatus s d).x = s.x := rfl
@[simp] theorem writeStatus_y (s : State) (d : BusWord) : (writeStatus s d).y = s.y := rfl
@[simp] theorem writeStatus_z (s : State) (d : BusWord) : (writeStatus s d).z = s.z := rfl
@[simp] theorem writeStatus_key (s : State) (d : BusWord) : (writeStatus s d).key = s.key := rfl
@[simp] theorem writeStatus_sArr (s : State) (d : BusWord) : (writeStatus s d).sArr = s.sArr := rfl
@[simp] theorem writeStatus_lArr (s : State) (d : BusWord) : (writeStatus s d).lArr = s.lArr := rfl
@[simp] theorem writeStatus_eng (s : State) (d : BusWord) : (writeStatus s d).eng = s.eng := rfl
@[simp] theorem writeStatus_draws (s : State) (d : BusWord) : (writeStatus s d).draws = s.draws := rfl
@[simp] theorem writeStatus_agenda (s : State) (d : BusWord) : (writeStatus s d).agenda = s.agenda := rfl
@[simp] theorem writeStatus_busOut (s : State) (d : BusWord) : (writeStatus s d).busOut = s.busOut := rfl

/-! ### writeSlotS -/

@[simp] theorem writeSlotS_config (s : State) (i : Fin 512) (l : Nat) (d : BusWord) : (writeSlotS s i l d).config = s.config := rfl
@[simp] theorem writeSlotS_ie (s : State) (i : Fin 512) (l : Nat) (d : BusWord) : (writeSlotS s i l d).ie = s.ie := rfl
@[simp] theorem writeSlotS_done (s : State) (i : Fin 512) (l : Nat) (d : BusWord) : (writeSlotS s i l d).done = s.done := rfl
@[simp] theorem writeSlotS_ovr (s : State) (i : Fin 512) (l : Nat) (d : BusWord) : (writeSlotS s i l d).ovr = s.ovr := rfl
@[simp] theorem writeSlotS_errcode (s : State) (i : Fin 512) (l : Nat) (d : BusWord) : (writeSlotS s i l d).errcode = s.errcode := rfl
@[simp] theorem writeSlotS_wSel (s : State) (i : Fin 512) (l : Nat) (d : BusWord) : (writeSlotS s i l d).wSel = s.wSel := rfl
@[simp] theorem writeSlotS_rounds (s : State) (i : Fin 512) (l : Nat) (d : BusWord) : (writeSlotS s i l d).rounds = s.rounds := rfl
@[simp] theorem writeSlotS_keylen (s : State) (i : Fin 512) (l : Nat) (d : BusWord) : (writeSlotS s i l d).keylen = s.keylen := rfl
@[simp] theorem writeSlotS_slen (s : State) (i : Fin 512) (l : Nat) (d : BusWord) : (writeSlotS s i l d).slen = s.slen := rfl
@[simp] theorem writeSlotS_llen (s : State) (i : Fin 512) (l : Nat) (d : BusWord) : (writeSlotS s i l d).llen = s.llen := rfl
@[simp] theorem writeSlotS_a (s : State) (i : Fin 512) (l : Nat) (d : BusWord) : (writeSlotS s i l d).a = s.a := rfl
@[simp] theorem writeSlotS_b (s : State) (i : Fin 512) (l : Nat) (d : BusWord) : (writeSlotS s i l d).b = s.b := rfl
@[simp] theorem writeSlotS_x (s : State) (i : Fin 512) (l : Nat) (d : BusWord) : (writeSlotS s i l d).x = s.x := rfl
@[simp] theorem writeSlotS_y (s : State) (i : Fin 512) (l : Nat) (d : BusWord) : (writeSlotS s i l d).y = s.y := rfl
@[simp] theorem writeSlotS_z (s : State) (i : Fin 512) (l : Nat) (d : BusWord) : (writeSlotS s i l d).z = s.z := rfl
@[simp] theorem writeSlotS_key (s : State) (i : Fin 512) (l : Nat) (d : BusWord) : (writeSlotS s i l d).key = s.key := rfl
@[simp] theorem writeSlotS_sArr (s : State) (i : Fin 512) (l : Nat) (d : BusWord) : (writeSlotS s i l d).sArr = s.sArr.set i (setLane s.sArr[i] l d) := rfl
@[simp] theorem writeSlotS_lArr (s : State) (i : Fin 512) (l : Nat) (d : BusWord) : (writeSlotS s i l d).lArr = s.lArr := rfl
@[simp] theorem writeSlotS_eng (s : State) (i : Fin 512) (l : Nat) (d : BusWord) : (writeSlotS s i l d).eng = s.eng := rfl
@[simp] theorem writeSlotS_draws (s : State) (i : Fin 512) (l : Nat) (d : BusWord) : (writeSlotS s i l d).draws = s.draws := rfl
@[simp] theorem writeSlotS_agenda (s : State) (i : Fin 512) (l : Nat) (d : BusWord) : (writeSlotS s i l d).agenda = s.agenda := rfl
@[simp] theorem writeSlotS_busOut (s : State) (i : Fin 512) (l : Nat) (d : BusWord) : (writeSlotS s i l d).busOut = s.busOut := rfl

/-! ### commitKey -/

@[simp] theorem commitKey_config {w : Width} (m : Mixing w) (r : Nat) (s : State) : (commitKey m r s).config = s.config := rfl
@[simp] theorem commitKey_ie {w : Width} (m : Mixing w) (r : Nat) (s : State) : (commitKey m r s).ie = s.ie := rfl
@[simp] theorem commitKey_done {w : Width} (m : Mixing w) (r : Nat) (s : State) : (commitKey m r s).done = s.done := rfl
@[simp] theorem commitKey_ovr {w : Width} (m : Mixing w) (r : Nat) (s : State) : (commitKey m r s).ovr = s.ovr := rfl
@[simp] theorem commitKey_errcode {w : Width} (m : Mixing w) (r : Nat) (s : State) : (commitKey m r s).errcode = s.errcode := rfl
@[simp] theorem commitKey_wSel {w : Width} (m : Mixing w) (r : Nat) (s : State) : (commitKey m r s).wSel = s.wSel := rfl
@[simp] theorem commitKey_rounds {w : Width} (m : Mixing w) (r : Nat) (s : State) : (commitKey m r s).rounds = s.rounds := rfl
@[simp] theorem commitKey_keylen {w : Width} (m : Mixing w) (r : Nat) (s : State) : (commitKey m r s).keylen = s.keylen := rfl
@[simp] theorem commitKey_slen {w : Width} (m : Mixing w) (r : Nat) (s : State) : (commitKey m r s).slen = BitVec.ofNat 10 (2 * r + 2) := rfl
@[simp] theorem commitKey_llen {w : Width} (m : Mixing w) (r : Nat) (s : State) : (commitKey m r s).llen = BitVec.ofNat 9 m.l.length := rfl
@[simp] theorem commitKey_a {w : Width} (m : Mixing w) (r : Nat) (s : State) : (commitKey m r s).a = s.a := rfl
@[simp] theorem commitKey_b {w : Width} (m : Mixing w) (r : Nat) (s : State) : (commitKey m r s).b = s.b := rfl
@[simp] theorem commitKey_x {w : Width} (m : Mixing w) (r : Nat) (s : State) : (commitKey m r s).x = s.x := rfl
@[simp] theorem commitKey_y {w : Width} (m : Mixing w) (r : Nat) (s : State) : (commitKey m r s).y = s.y := rfl
@[simp] theorem commitKey_z {w : Width} (m : Mixing w) (r : Nat) (s : State) : (commitKey m r s).z = s.z := rfl
@[simp] theorem commitKey_key {w : Width} (m : Mixing w) (r : Nat) (s : State) : (commitKey m r s).key = s.key := rfl
@[simp] theorem commitKey_sArr {w : Width} (m : Mixing w) (r : Nat) (s : State) : (commitKey m r s).sArr = overlay m.s s.sArr := rfl
@[simp] theorem commitKey_lArr {w : Width} (m : Mixing w) (r : Nat) (s : State) : (commitKey m r s).lArr = overlay m.l s.lArr := rfl
@[simp] theorem commitKey_eng {w : Width} (m : Mixing w) (r : Nat) (s : State) : (commitKey m r s).eng = s.eng := rfl
@[simp] theorem commitKey_draws {w : Width} (m : Mixing w) (r : Nat) (s : State) : (commitKey m r s).draws = s.draws := rfl
@[simp] theorem commitKey_agenda {w : Width} (m : Mixing w) (r : Nat) (s : State) : (commitKey m r s).agenda = s.agenda := rfl
@[simp] theorem commitKey_busOut {w : Width} (m : Mixing w) (r : Nat) (s : State) : (commitKey m r s).busOut = s.busOut := rfl

/-! ### resetBlock -/

@[simp] theorem resetBlock_config (s : State) : (resetBlock s).config = s.config := rfl
@[simp] theorem resetBlock_ie (s : State) : (resetBlock s).ie = false := rfl
@[simp] theorem resetBlock_done (s : State) : (resetBlock s).done = false := rfl
@[simp] theorem resetBlock_ovr (s : State) : (resetBlock s).ovr = false := rfl
@[simp] theorem resetBlock_errcode (s : State) : (resetBlock s).errcode = 0 := rfl
@[simp] theorem resetBlock_wSel (s : State) : (resetBlock s).wSel = 2 := rfl
@[simp] theorem resetBlock_rounds (s : State) : (resetBlock s).rounds = 12 := rfl
@[simp] theorem resetBlock_keylen (s : State) : (resetBlock s).keylen = 16 := rfl
@[simp] theorem resetBlock_slen (s : State) : (resetBlock s).slen = 0 := rfl
@[simp] theorem resetBlock_llen (s : State) : (resetBlock s).llen = 0 := rfl
@[simp] theorem resetBlock_a (s : State) : (resetBlock s).a = 0 := rfl
@[simp] theorem resetBlock_b (s : State) : (resetBlock s).b = 0 := rfl
@[simp] theorem resetBlock_x (s : State) : (resetBlock s).x = 0 := rfl
@[simp] theorem resetBlock_y (s : State) : (resetBlock s).y = 0 := rfl
@[simp] theorem resetBlock_z (s : State) : (resetBlock s).z = 0 := rfl
@[simp] theorem resetBlock_key (s : State) : (resetBlock s).key = Vector.replicate 256 0 := rfl
@[simp] theorem resetBlock_sArr (s : State) : (resetBlock s).sArr = Vector.ofFn fun i => Config.freeSlot (s.draws + i) := rfl
@[simp] theorem resetBlock_lArr (s : State) : (resetBlock s).lArr = Vector.ofFn fun j => Config.freeSlot (s.draws + 512 + j) := rfl
@[simp] theorem resetBlock_eng (s : State) : (resetBlock s).eng = .idle := rfl
@[simp] theorem resetBlock_draws (s : State) : (resetBlock s).draws = s.draws + 768 := rfl
@[simp] theorem resetBlock_agenda (s : State) : (resetBlock s).agenda = s.agenda := rfl
@[simp] theorem resetBlock_busOut (s : State) : (resetBlock s).busOut = s.busOut := rfl

end Sys2Proof.Machine
end

