-- ==== Sys2Proof/Laws/Ops.lean ====
section
/-! SUPPORT. What the shared operations can do: the ends of a command, the shared checks, the word primitives. -/

namespace Sys2Proof

/-! ### Widths -/

theorem Width.bits_pos (w : Width) : 0 < w.bits := by cases w <;> decide

theorem Width.bits_le (w : Width) : w.bits ≤ 128 := by cases w <;> decide

theorem Width.bits_eq (w : Width) : w.bits = 8 * w.bytes := by cases w <;> rfl

theorem Width.bytes_pos (w : Width) : 0 < w.bytes := by cases w <;> decide

theorem Width.bytes_le (w : Width) : w.bytes ≤ 16 := by cases w <;> decide

end Sys2Proof

namespace Sys2Proof.Machine

/-! ### The ends of a command -/

@[simp] theorem complete_ok (s t : State) : complete s (.ok t) = .next (finish t) := rfl

@[simp] theorem complete_error (s : State) (e : CmdError) : complete s (.error e) = .next (failWith e s) := rfl

/-- A completion always answers a next state, and which one. -/
theorem complete_cases (s : State) (r : Except CmdError State) :
    (∃ t, r = .ok t ∧ complete s r = .next (finish t)) ∨
    (∃ e, r = .error e ∧ complete s r = .next (failWith e s)) := by
  cases r with
  | ok t => exact .inl ⟨t, rfl, rfl⟩
  | error e => exact .inr ⟨e, rfl, rfl⟩

theorem errorCode_ne_zero (e : CmdError) : errorCode e ≠ 0 := by cases e <;> decide

theorem errorCode_le (e : CmdError) : (errorCode e).toNat ≤ 6 := by cases e <;> decide

/-! ### The shared checks -/

/-- CAP[4:0] reports the implemented widths (10_state.md R21). -/
theorem capWord_getLsbD (c : Config) (k : Nat) (h : k < 5) : (capWord c).getLsbD k = c.implWidths.getLsbD k := by
  have hk : k < 32 := by omega
  simp only [capWord, BitVec.getLsbD_append, h, if_true]

theorem widthOfSel_some {ws : BitVec 3} {w : Width} (h : widthOfSel ws = some w) :
    ws.toNat ≤ 4 ∧ w.bits = 8 * 2 ^ ws.toNat := by
  revert h
  unfold widthOfSel
  split <;> rename_i e <;> intro h <;> first | (cases h; rw [e]; decide) | cases h

theorem widthOfSel_of_le {ws : BitVec 3} (h : ws.toNat ≤ 4) : ∃ w, widthOfSel ws = some w := by
  have all : ∀ v : BitVec 3, v.toNat ≤ 4 → (widthOfSel v).isSome = true := by decide
  exact Option.isSome_iff_exists.mp (all ws h)

/-- WIDTH() succeeds exactly when W_SEL names an implemented width (40_command_control.md R91). -/
theorem readWidth_of_implemented {s : State} (h : s.wSel.toNat ≤ 4)
    (hc : s.config.implWidths.getLsbD s.wSel.toNat = true) :
    ∃ w, readWidth s = .ok w ∧ widthOfSel s.wSel = some w ∧ w.bits = 8 * 2 ^ s.wSel.toNat := by
  obtain ⟨w, hw⟩ := widthOfSel_of_le h
  refine ⟨w, ?_, hw, (widthOfSel_some hw).2⟩
  simp only [readWidth, hw, capWord_getLsbD _ _ (Nat.lt_succ_of_le h), hc, if_true]

theorem readWidth_ok {s : State} {w : Width} (h : readWidth s = .ok w) :
    s.wSel.toNat ≤ 4 ∧ s.config.implWidths.getLsbD s.wSel.toNat = true ∧ widthOfSel s.wSel = some w ∧
      w.bits = 8 * 2 ^ s.wSel.toNat := by
  unfold readWidth at h
  split at h
  · cases h
  · rename_i v hv
    obtain ⟨hle, hb⟩ := widthOfSel_some hv
    rw [capWord_getLsbD _ _ (Nat.lt_succ_of_le hle)] at h
    split at h
    · rename_i hc
      cases h
      exact ⟨hle, hc, hv, hb⟩
    · cases h

/-- WIDTH() fails only with UnsupportedWidthError (R91). -/
theorem readWidth_cases (s : State) : (∃ w, readWidth s = .ok w) ∨ readWidth s = .error .unsupportedWidth := by
  unfold readWidth
  split
  · exact .inr rfl
  · split
    · exact .inl ⟨_, rfl⟩
    · exact .inr rfl

theorem readRounds_of_le {s : State} (h : s.rounds.toNat ≤ 255) : readRounds s = .ok s.rounds.toNat := by
  simp [readRounds, Config.rmax, Nat.not_lt.mpr h]

theorem readRounds_of_gt {s : State} (h : s.rounds.toNat > 255) : readRounds s = .error .invalidParameters := by
  simp [readRounds, Config.rmax, h]

theorem readKeyLen_of_le {s : State} (h : s.keylen.toNat ≤ 255) : readKeyLen s = .ok s.keylen.toNat := by
  simp [readKeyLen, Config.bmax, Nat.not_lt.mpr h]

theorem readKeyLen_of_gt {s : State} (h : s.keylen.toNat > 255) : readKeyLen s = .error .invalidParameters := by
  simp [readKeyLen, Config.bmax, h]

/-! ### Words in slots -/

@[simp] theorem lowW_toNat (w : Width) (v : Slot) : (lowW w v).toNat = v.toNat % 2 ^ w.bits := by
  simp [lowW]

@[simp] theorem zextSlot_toNat {w : Width} (v : Word w) : (zextSlot v).toNat = v.toNat := by
  have h : v.toNat < 2 ^ 128 := lt_of_lt_of_le v.isLt (Nat.pow_le_pow_right (by decide) w.bits_le)
  rw [zextSlot, BitVec.toNat_setWidth, Nat.mod_eq_of_lt h]

@[simp] theorem lowW_zextSlot {w : Width} (v : Word w) : lowW w (zextSlot v) = v := by
  apply BitVec.eq_of_toNat_eq
  rw [lowW_toNat, zextSlot_toNat, Nat.mod_eq_of_lt v.isLt]

theorem zextSlot_eq_ofNat {w : Width} (v : Word w) : zextSlot v = BitVec.ofNat 128 v.toNat := by
  apply BitVec.eq_of_toNat_eq
  rw [zextSlot_toNat, BitVec.toNat_ofNat, Nat.mod_eq_of_lt]
  exact lt_of_lt_of_le v.isLt (Nat.pow_le_pow_right (by decide) w.bits_le)

theorem fitsW_iff (w : Width) (v : Slot) : fitsW w v = true ↔ v.toNat < 2 ^ w.bits := by simp [fitsW]

theorem zextSlot_lowW {w : Width} {v : Slot} (h : fitsW w v = true) : zextSlot (lowW w v) = v := by
  apply BitVec.eq_of_toNat_eq
  rw [zextSlot_toNat, lowW_toNat, Nat.mod_eq_of_lt ((fitsW_iff w v).mp h)]

theorem fitsW_zextSlot {w : Width} (v : Word w) : fitsW w (zextSlot v) = true := by
  rw [fitsW_iff, zextSlot_toNat]; exact v.isLt

/-! ### Primitives -/

@[simp] theorem addW_toNat {w : Width} (x y : Word w) : (addW x y).toNat = (x.toNat + y.toNat) % 2 ^ w.bits :=
  BitVec.toNat_add ..

/-- A rotation's bit k is the operand's bit `k - n mod w` (41_word_arithmetic.md R101). -/
theorem rotlW_getLsbD {w : Width} (x : Word w) (n k : Nat) :
    (rotlW x n).getLsbD k = (decide (k < w.bits) && x.getLsbD ((k + (w.bits - n % w.bits)) % w.bits)) := by
  have hn : n % w.bits < w.bits := Nat.mod_lt _ w.bits_pos
  by_cases hk : k < w.bits
  · by_cases hkn : k < n % w.bits
    · have e : (k + (w.bits - n % w.bits)) % w.bits = w.bits - n % w.bits + k := by
        rw [Nat.mod_eq_of_lt (by omega)]; omega
      simp [rotlW, hk, hkn, e]
    · have e : (k + (w.bits - n % w.bits)) % w.bits = k - n % w.bits := by
        rw [show k + (w.bits - n % w.bits) = (k - n % w.bits) + w.bits by omega, Nat.add_mod_right,
          Nat.mod_eq_of_lt (by omega)]
      have h2 : x.getLsbD (w.bits - n % w.bits + k) = false := BitVec.getLsbD_of_ge _ _ (by omega)
      simp [rotlW, hk, hkn, e, h2, BitVec.getLsbD_eq_getElem (show k - n % w.bits < w.bits by omega)]
  · simp [hk, BitVec.getLsbD_of_ge (rotlW x n) k (by omega)]

/-- A right rotation's bit k is the operand's bit `k + n mod w` (41_word_arithmetic.md R102). -/
theorem rotrW_getLsbD {w : Width} (x : Word w) (n k : Nat) :
    (rotrW x n).getLsbD k = (decide (k < w.bits) && x.getLsbD ((k + n) % w.bits)) := by
  have hn : n % w.bits < w.bits := Nat.mod_lt _ w.bits_pos
  by_cases hk : k < w.bits
  · have e0 : (k + n) % w.bits = (k + n % w.bits) % w.bits := by simp
    by_cases hkn : k + n % w.bits < w.bits
    · have e : (k + n) % w.bits = n % w.bits + k := by
        rw [e0, Nat.mod_eq_of_lt hkn]; omega
      have h2 : k < w.bits - n % w.bits := by omega
      simp [rotrW, hk, h2, e]
    · have e : (k + n) % w.bits = k - (w.bits - n % w.bits) := by
        rw [e0, Nat.mod_eq_sub_mod (by omega), Nat.mod_eq_of_lt (by omega)]; omega
      have h2 : ¬ k < w.bits - n % w.bits := by omega
      have h3 : x.getLsbD (n % w.bits + k) = false := BitVec.getLsbD_of_ge _ _ (by omega)
      simp [rotrW, hk, h2, h3, e, BitVec.getLsbD_eq_getElem (show k - (w.bits - n % w.bits) < w.bits by omega)]
  · simp [hk, BitVec.getLsbD_of_ge (rotrW x n) k (by omega)]

/-! ### Packing -/

theorem leNat_lt (cs : List Byte) : leNat cs < 256 ^ cs.length := by
  induction cs with
  | nil => simp [leNat]
  | cons c cs ih =>
    have hc : c.toNat < 256 := c.isLt
    simp only [leNat, List.length_cons, pow_succ]
    omega

theorem bytesToWords_length {w : Width} {bs : List Byte} {ws : List (Word w)} (h : bytesToWords w bs = .ok ws) :
    bs.length % w.bytes = 0 ∧ ws.length = bs.length / w.bytes := by
  unfold bytesToWords at h
  split at h
  · cases h; exact ⟨‹_›, by simp⟩
  · cases h

theorem padBytes_spec (w : Width) (b : Nat) : (b + padBytes w b) % w.bytes = 0 := by
  have h := Nat.mod_lt b w.bytes_pos
  unfold padBytes
  by_cases h0 : b % w.bytes = 0
  · simp [h0]
  · rw [Nat.mod_eq_of_lt (show w.bytes - b % w.bytes < w.bytes by omega)]
    have := Nat.div_add_mod b w.bytes
    rw [show b + (w.bytes - b % w.bytes) = w.bytes * (b / w.bytes + 1) by rw [Nat.mul_add]; omega]
    exact Nat.mul_mod_right ..

/-! ### Arrays -/

theorem overlay_getElem {w : Width} {n : Nat} (ws : List (Word w)) (arr : Vector Slot n) (i : Nat) (h : i < n) :
    (overlay ws arr)[i] = if h' : i < ws.length then zextSlot ws[i] else arr[i] := by
  simp [overlay]

@[simp] theorem keyBytes_length {s : State} {b : Nat} (h : b ≤ 256) : (keyBytes s b).length = b := by
  simp [keyBytes, h]

/-! ### Lanes -/

/-- A byte of a 32-bit value. -/
theorem byteOfBusWord_getLsbD (v : BusWord) (k m : Nat) :
    (byteOfBusWord v k).getLsbD m = (decide (m < 8) && v.getLsbD (8 * k + m)) := by
  simp [byteOfBusWord]

theorem getLane_getLsbD (v : Slot) (l m : Nat) : (getLane v l).getLsbD m = (decide (m < 32) && v.getLsbD (32 * l + m)) := by
  simp [getLane]

/-- Writing a lane replaces its bits and no others (20_memory.md R56). -/
theorem setLane_getLsbD (v : Slot) (l : Nat) (d : BusWord) (k : Nat) (hk : k < 128) :
    (setLane v l d).getLsbD k = if 32 * l ≤ k ∧ k < 32 * l + 32 then d.getLsbD (k - 32 * l) else v.getLsbD k := by
  have mask : ∀ m, ((BitVec.allOnes 32).setWidth 128).getLsbD m = decide (m < 32) := by
    intro m
    rw [BitVec.getLsbD_setWidth, BitVec.getLsbD_allOnes]
    by_cases h : m < 32
    · simp [h, show m < 128 by omega]
    · simp [h]
  unfold setLane
  generalize (BitVec.allOnes 32).setWidth 128 = q at mask
  simp only [BitVec.getLsbD_or, BitVec.getLsbD_and, BitVec.getLsbD_not, BitVec.getLsbD_shiftLeft, BitVec.getLsbD_setWidth, mask, hk,
    decide_true, Bool.true_and]
  by_cases h1 : k < 32 * l
  · simp [h1, show ¬ (32 * l ≤ k ∧ k < 32 * l + 32) by omega]
  · have h3 : ¬ k - 32 * l < 32 → d.getLsbD (k - 32 * l) = false := fun h => BitVec.getLsbD_of_ge _ _ (by omega)
    by_cases h2 : k < 32 * l + 32
    · simp [h1, show k - 32 * l < 32 by omega, show k - 32 * l < 128 by omega, show 32 * l ≤ k ∧ k < 32 * l + 32 by omega]
    · simp [h1, h3 (by omega), show ¬ k - 32 * l < 32 by omega, show ¬ (32 * l ≤ k ∧ k < 32 * l + 32) by omega]

end Sys2Proof.Machine
end

