-- ==== Sys2Proof/Laws/KeySchedule.lean ====
section
/-! SUPPORT. Lengths through the key schedule (42_key_schedule.md R121 to R123) and key packing (41_word_arithmetic.md R105). -/

namespace Sys2Proof.Machine

@[simp] theorem initS_length {w : Width} (n : Nat) (p q : Word w) : (initS n p q).length = n := by
  induction n generalizing p with
  | zero => rfl
  | succ n ih => simp [initS, ih]

@[simp] theorem mixStep_s_length {w : Width} (m : Mixing w) : (mixStep m).s.length = m.s.length := by simp [mixStep]

@[simp] theorem mixStep_l_length {w : Width} (m : Mixing w) : (mixStep m).l.length = m.l.length := by simp [mixStep]

@[simp] theorem mixLoop_s_length {w : Width} (t : Nat) (m : Mixing w) : (mixLoop t m).s.length = m.s.length := by
  induction t generalizing m with
  | zero => rfl
  | succ t ih => rw [mixLoop, ih, mixStep_s_length]

@[simp] theorem mixLoop_l_length {w : Width} (t : Nat) (m : Mixing w) : (mixLoop t m).l.length = m.l.length := by
  induction t generalizing m with
  | zero => rfl
  | succ t ih => rw [mixLoop, ih, mixStep_l_length]

@[simp] theorem mix_s_length {w : Width} (s l : List (Word w)) : (mix s l).s.length = s.length := by simp [mix]

@[simp] theorem mix_l_length {w : Width} (s l : List (Word w)) : (mix s l).l.length = l.length := by simp [mix]

/-- Key packing never raises LengthError (R105: "this never raises LengthError"). -/
theorem keyWords_isOk (w : Width) (bs : List Byte) : ∃ ws, keyWords w bs = .ok ws := by
  unfold keyWords
  split
  · exact ⟨_, rfl⟩
  · exact ⟨_, by rw [bytesToWords, if_pos (by simpa using padBytes_spec w bs.length)]⟩

/-- A key of at most 255 bytes packs into at most 255 words, so LLEN and the L window hold them (00_scope.md R13). -/
theorem keyWords_length_le {w : Width} {bs : List Byte} {ws : List (Word w)} (h : keyWords w bs = .ok ws)
    (hb : bs.length ≤ 255) : ws.length ≤ 255 := by
  unfold keyWords at h
  split at h
  · cases h; simp
  · rename_i h0
    obtain ⟨hm, hl⟩ := bytesToWords_length h
    rw [hl, List.length_append, List.length_replicate] at *
    have hp : padBytes w bs.length < w.bytes := Nat.mod_lt _ w.bytes_pos
    have h1 : bs.length + padBytes w bs.length < (bs.length + 1) * w.bytes := by
      have : bs.length ≤ bs.length * w.bytes := Nat.le_mul_of_pos_right _ w.bytes_pos
      rw [Nat.add_mul, Nat.one_mul]; omega
    have h2 := (Nat.div_lt_iff_lt_mul w.bytes_pos).mpr h1
    omega

end Sys2Proof.Machine
end

