-- ==== Sys2Proof/Laws/Exec.lean ====
section
/-! SUPPORT. Said once: how a command can end. Every command answers a next state; it fails and writes STATUS alone, or it
succeeds and writes its destinations alone (30_encoding.md R76, 60_exceptions.md R158). -/

namespace Sys2Proof.Machine

/-- u differs from s at most in the destinations of the command, and LLEN stays small. -/
def writesOnly (i : Instr) (s u : State) : Prop :=
  match i with
  | .nop => u = s
  | .setkey => u = { s with sArr := u.sArr, lArr := u.lArr, slen := u.slen, llen := u.llen } ∧ u.llen.toNat ≤ 255
  | .packkey => u = { s with lArr := u.lArr, llen := u.llen } ∧ u.llen.toNat ≤ 255
  | .encrypt | .decrypt => u = { s with a := u.a, b := u.b }
  | .magicp | .magicq | .add | .sub | .rotl | .rotr | .xor => u = { s with z := u.z }

theorem complete_width_cases (s : State) (f : Width → Slot) :
    (∃ e, complete s (do let w ← readWidth s; .ok { s with z := f w }) = .next (failWith e s)) ∨
    ∃ u, complete s (do let w ← readWidth s; .ok { s with z := f w }) = .next (finish u) ∧ u = { s with z := u.z } := by
  rcases readWidth_cases s with ⟨w, h⟩ | h
  · rw [h]; exact .inr ⟨_, rfl, rfl⟩
  · rw [h]; exact .inl ⟨_, rfl⟩

theorem readRounds_cases (s : State) : (s.rounds.toNat ≤ 255 ∧ readRounds s = .ok s.rounds.toNat) ∨
    readRounds s = .error .invalidParameters := by
  by_cases h : s.rounds.toNat ≤ 255
  · exact .inl ⟨h, readRounds_of_le h⟩
  · exact .inr (readRounds_of_gt (by omega))

theorem readKeyLen_cases (s : State) : (s.keylen.toNat ≤ 255 ∧ readKeyLen s = .ok s.keylen.toNat) ∨
    readKeyLen s = .error .invalidParameters := by
  by_cases h : s.keylen.toNat ≤ 255
  · exact .inl ⟨h, readKeyLen_of_le h⟩
  · exact .inr (readKeyLen_of_gt (by omega))

theorem execSetkey_cases (s : State) : (∃ e, execSetkey s = .next (failWith e s)) ∨
    ∃ u, execSetkey s = .next (finish u) ∧ writesOnly .setkey s u := by
  unfold execSetkey
  rcases readWidth_cases s with ⟨w, h⟩ | h
  · rcases readRounds_cases s with ⟨hr, h2⟩ | h2
    · rcases readKeyLen_cases s with ⟨hk, h3⟩ | h3
      · obtain ⟨l, hl⟩ := keyWords_isOk w (keyBytes s s.keylen.toNat)
        have hle := keyWords_length_le hl (by rw [keyBytes_length (by omega)]; exact hk)
        refine .inr ⟨commitKey (mix (initS (2 * s.rounds.toNat + 2) (magicP w) (magicQ w)) l) s.rounds.toNat s, ?_, rfl, ?_⟩
        · rw [h, h2, h3]
          show complete s (do let l ← keyWords w (keyBytes s s.keylen.toNat); _) = _
          rw [hl]; rfl
        · rw [commitKey_llen, mix_l_length, BitVec.toNat_ofNat]
          exact le_trans (Nat.mod_le _ _) hle
      · exact .inl ⟨_, by rw [h, h2, h3]; rfl⟩
    · exact .inl ⟨_, by rw [h, h2]; rfl⟩
  · exact .inl ⟨_, by rw [h]; rfl⟩

theorem execPackkey_cases (s : State) : (∃ e, execPackkey s = .next (failWith e s)) ∨
    ∃ u, execPackkey s = .next (finish u) ∧ writesOnly .packkey s u := by
  unfold execPackkey
  rcases readWidth_cases s with ⟨w, h⟩ | h
  · rcases readKeyLen_cases s with ⟨hk, h3⟩ | h3
    · rw [h, h3]
      show (∃ e, complete s (do let words ← bytesToWords w (keyBytes s s.keylen.toNat); _) = _) ∨
        ∃ u, complete s (do let words ← bytesToWords w (keyBytes s s.keylen.toNat); _) = _ ∧ _
      cases bytesToWords w (keyBytes s s.keylen.toNat) with
      | error e => exact .inl ⟨e, rfl⟩
      | ok ws =>
        refine .inr ⟨_, rfl, rfl, ?_⟩
        show (BitVec.ofNat 9 (s.keylen.toNat / w.bytes)).toNat ≤ 255
        rw [BitVec.toNat_ofNat]
        exact le_trans (Nat.mod_le _ _) (le_trans (Nat.div_le_self _ _) hk)
    · exact .inl ⟨_, by rw [h, h3]; rfl⟩
  · exact .inl ⟨_, by rw [h]; rfl⟩

theorem execEncrypt_cases (s : State) : (∃ e, execEncrypt s = .next (failWith e s)) ∨
    ∃ u, execEncrypt s = .next (finish u) ∧ writesOnly .encrypt s u := by
  unfold execEncrypt
  cases cipherInputs s with
  | error e => exact .inl ⟨e, rfl⟩
  | ok p => exact .inr ⟨_, rfl, rfl⟩

theorem execDecrypt_cases (s : State) : (∃ e, execDecrypt s = .next (failWith e s)) ∨
    ∃ u, execDecrypt s = .next (finish u) ∧ writesOnly .decrypt s u := by
  unfold execDecrypt
  cases cipherInputs s with
  | error e => exact .inl ⟨e, rfl⟩
  | ok p => exact .inr ⟨_, rfl, rfl⟩

/-- How a command can end. -/
theorem exec_cases (i : Instr) (s : State) : (∃ e, exec i s = .next (failWith e s)) ∨
    ∃ u, exec i s = .next (finish u) ∧ writesOnly i s u := by
  cases i with
  | nop => exact .inr ⟨s, rfl, rfl⟩
  | setkey => exact execSetkey_cases s
  | encrypt => exact execEncrypt_cases s
  | decrypt => exact execDecrypt_cases s
  | packkey => exact execPackkey_cases s
  | magicp => exact complete_width_cases s fun w => zextSlot (magicP w)
  | magicq => exact complete_width_cases s fun w => zextSlot (magicQ w)
  | add => exact complete_width_cases s fun w => zextSlot (addW (lowW w s.x) (lowW w s.y))
  | sub => exact complete_width_cases s fun w => zextSlot (subW (lowW w s.x) (lowW w s.y))
  | rotl => exact complete_width_cases s fun w => zextSlot (rotlW (lowW w s.x) (s.y.toNat % w.bits))
  | rotr => exact complete_width_cases s fun w => zextSlot (rotrW (lowW w s.x) (s.y.toNat % w.bits))
  | xor => exact complete_width_cases s fun w => zextSlot (xorW (lowW w s.x) (lowW w s.y))

/-- What every successful command leaves alone: all but A, B, Z, S, L, SLEN and LLEN. -/
theorem writesOnly_frame {i : Instr} {s u : State} (h : writesOnly i s u) :
    u = { s with a := u.a, b := u.b, z := u.z, sArr := u.sArr, lArr := u.lArr, slen := u.slen, llen := u.llen } ∧
      (u.llen = s.llen ∨ u.llen.toNat ≤ 255) := by
  cases i <;> simp only [writesOnly] at h
  case nop => subst h; exact ⟨rfl, .inl rfl⟩
  case setkey => exact ⟨by rw [h.1], .inr h.2⟩
  case packkey => exact ⟨by rw [h.1], .inr h.2⟩
  all_goals exact ⟨by rw [h], .inl (by rw [h])⟩

/-- t is s after a successful completion: ENG IDLE, DONE, and no other register changed than the seven destinations. -/
def succeeded (s t : State) : Prop :=
  t = { s with
    a := t.a, b := t.b, z := t.z, sArr := t.sArr, lArr := t.lArr, slen := t.slen, llen := t.llen, eng := .idle, done := true } ∧
  (t.llen = s.llen ∨ t.llen.toNat ≤ 255)

/-- The state after a command: an error's outcome, or ENG IDLE and DONE with other registers than the seven destinations kept. -/
theorem exec_next {i : Instr} {s t : State} (h : exec i s = .next t) :
    (∃ e, t = failWith e s) ∨
    succeeded s t := by
  rcases exec_cases i s with ⟨e, he⟩ | ⟨u, hu, hw⟩
  · rw [he] at h; cases h; exact .inl ⟨e, rfl⟩
  · rw [hu] at h; cases h
    obtain ⟨h1, h2⟩ := writesOnly_frame hw
    refine .inr ⟨?_, h2⟩
    rw [h1]; rfl

theorem exec_isNext (i : Instr) (s : State) : ∃ t, exec i s = .next t := by
  rcases exec_cases i s with ⟨e, he⟩ | ⟨u, hu, -⟩
  · exact ⟨_, he⟩
  · exact ⟨_, hu⟩

/-- The engine's turn: nothing while IDLE; else the latched word's command or IllegalCommand. -/
theorem engineTurn_cases (s : State) : (s.eng = .idle ∧ engineTurn s = .next s) ∨
    (∃ c i, s.eng = .busy c ∧ decode c = .ok i ∧ engineTurn s = exec i s) ∨
    ∃ c d, s.eng = .busy c ∧ decode c = .error d ∧ engineTurn s = .next (failWith .illegalCommand s) := by
  unfold engineTurn
  cases he : s.eng with
  | idle => exact .inl ⟨rfl, rfl⟩
  | busy c =>
    cases hd : decode c with
    | ok i => exact .inr (.inl ⟨c, i, rfl, hd, by simp only [hd]⟩)
    | error d => exact .inr (.inr ⟨c, d, rfl, hd, by simp only [hd]; rfl⟩)

/-- After the engine's turn: unchanged while IDLE; else a failed or a successful completion. -/
theorem engineTurn_next {s t : State} (h : engineTurn s = .next t) :
    (s.eng = .idle ∧ t = s) ∨ (s.eng ≠ .idle ∧ ((∃ e, t = failWith e s) ∨
    succeeded s t)) := by
  rcases engineTurn_cases s with ⟨h1, h2⟩ | ⟨c, i, h1, -, h2⟩ | ⟨c, d, h1, -, h2⟩
  · rw [h2] at h; cases h; exact .inl ⟨h1, rfl⟩
  · rw [h2] at h; exact .inr ⟨by simp [h1], exec_next h⟩
  · rw [h2] at h; cases h; exact .inr ⟨by simp [h1], .inl ⟨_, rfl⟩⟩

theorem engineTurn_isNext (s : State) : ∃ t, engineTurn s = .next t := by
  rcases engineTurn_cases s with ⟨-, h2⟩ | ⟨c, i, -, -, h2⟩ | ⟨c, d, -, -, h2⟩
  · exact ⟨_, h2⟩
  · rw [h2]; exact exec_isNext i s
  · exact ⟨_, h2⟩

end Sys2Proof.Machine
end

