-- ==== Sys2Proof/Laws/Bus.lean ====
section
/-! SUPPORT. Said once: what a host access can do (20_memory.md R51, R53, R63 to R66), what a step can do, and which addresses
name which register. -/

namespace Sys2Proof.Machine

theorem isBusy_iff (s : State) : isBusy s = true ↔ s.eng ≠ .idle := by
  unfold isBusy; cases s.eng <;> simp

theorem isBusy_false {s : State} (h : s.eng = .idle) : isBusy s = false := by simp [isBusy, h]

theorem pendingDest_idle {s : State} (h : s.eng = .idle) (r : Reg) : pendingDest s r = false := by simp [pendingDest, h]

theorem wf_iff (c : Config) (a : Access) : a.wf c = true ↔
    a.inAperture c = true ∧ a.size = .four ∧ (a.addr - c.base) % 4 = 0 := by
  simp [Access.wf, Access.sizeLegal, Access.aligned, and_assoc]

theorem inAperture_iff (c : Config) (a : Access) : a.inAperture c = true ↔ c.base ≤ a.addr ∧ a.addr < c.base + 0x4000 := by
  rw [Access.inAperture, Bool.and_eq_true, decide_eq_true_eq, decide_eq_true_eq]; rfl

/-- What one host access can do. -/
theorem hostTurn_cases (a : Access) (s : State) :
    (a.inAperture s.config = false ∧ hostTurn a s = .next s) ∨
    (a.inAperture s.config = true ∧ a.wf s.config = false ∧ hostTurn a s = .fault .busError) ∨
    (a.wf s.config = true ∧ a.kind = .read ∧ pendingDest s (regAt (a.addr - s.config.base)) = true ∧
      hostTurn a s = .next { s with draws := s.draws + 1, busOut := some (.readOkay (Config.freeRead s.draws)) }) ∨
    (a.wf s.config = true ∧ a.kind = .read ∧ pendingDest s (regAt (a.addr - s.config.base)) = false ∧
      hostTurn a s = .next { s with busOut := some (.readOkay (readReg s (regAt (a.addr - s.config.base)))) }) ∨
    (∃ d, a.wf s.config = true ∧ a.kind = .write d ∧ locked (regAt (a.addr - s.config.base)) = true ∧ isBusy s = true ∧
      hostTurn a s = .next { s with ovr := true, busOut := some .writeOkay }) ∨
    (∃ d, a.wf s.config = true ∧ a.kind = .write d ∧ (locked (regAt (a.addr - s.config.base)) && isBusy s) = false ∧
      hostTurn a s = .next { writeReg s (regAt (a.addr - s.config.base)) d with busOut := some .writeOkay }) := by
  by_cases h1 : a.inAperture s.config = true
  · by_cases h2 : (a.sizeLegal && a.aligned s.config) = true
    · have hwf : a.wf s.config = true := by
        rw [Bool.and_eq_true] at h2; simp [Access.wf, h1, h2.1, h2.2]
      cases hk : a.kind with
      | read =>
        by_cases hp : pendingDest s (regAt (a.addr - s.config.base)) = true
        · exact .inr (.inr (.inl ⟨hwf, rfl, hp, by simp only [hostTurn, busAccess, h1, h2, hk, hostRead, hp, if_true]⟩))
        · rw [Bool.not_eq_true] at hp
          exact .inr (.inr (.inr (.inl ⟨hwf, rfl, hp, by simp [hostTurn, busAccess, h1, h2, hk, hostRead, hp]⟩)))
      | write d =>
        by_cases hl : (locked (regAt (a.addr - s.config.base)) && isBusy s) = true
        · have := hl
          rw [Bool.and_eq_true] at this
          exact .inr (.inr (.inr (.inr (.inl ⟨d, hwf, rfl, this.1, this.2, by
            simp only [hostTurn, busAccess, h1, h2, hk, hostWrite, hl, if_true, overrun]⟩))))
        · rw [Bool.not_eq_true] at hl
          exact .inr (.inr (.inr (.inr (.inr ⟨d, hwf, rfl, hl, by
            simp only [hostTurn, busAccess, h1, h2, hk, hostWrite, hl, if_true, Bool.false_eq_true, if_false]⟩))))
    · rw [Bool.not_eq_true] at h2
      refine .inr (.inl ⟨h1, ?_, by simp only [hostTurn, busAccess, h1, h2, if_true, Bool.false_eq_true, if_false]⟩)
      rw [← h2]; simp [Access.wf, h1]
  · rw [Bool.not_eq_true] at h1
    exact .inl ⟨h1, by simp [hostTurn, busAccess, h1]⟩

/-- A step is one turn: the engine's when no turn is left, else the first of the agenda. -/
theorem step_nil {s : State} (h : s.agenda = []) : step s = engineTurn s := by simp [step, h, runTurn]

theorem step_cons {s : State} {u : Turn} {rest : List Turn} (h : s.agenda = u :: rest) :
    step s = runTurn u { s with agenda := rest } := by simp [step, h]

/-- The host's runs, one step at a time. -/
theorem run_next (M : Host.Core) (k : Nat) (s t : M.State) (h : M.step s = .next t) : M.run (k + 1) s = M.run k t := by
  simp only [Host.Core.run, h]

/-- A performed write's effect on the fields no write but a reset touches, and on ENG. -/
theorem writeReg_cases (s : State) (r : Reg) (d : BusWord) :
    (r = .ctrl ∧ d.getLsbD 1 = true ∧ writeReg s r d = resetBlock s) ∨
    (r = .ctrl ∧ d.getLsbD 1 = false ∧ writeReg s r d = { s with ie := d.getLsbD 0 }) ∨
    (r = .status ∧ writeReg s r d = writeStatus s d) ∨
    (r = .cmd ∧ writeReg s r d = accept (CommandWord.ofWord d) s) ∨
    (locked r = true ∧ r ≠ .cmd ∧ writeReg s r d = { s with
      wSel := (writeReg s r d).wSel, rounds := (writeReg s r d).rounds, keylen := (writeReg s r d).keylen
      slen := (writeReg s r d).slen, a := (writeReg s r d).a, b := (writeReg s r d).b, x := (writeReg s r d).x
      y := (writeReg s r d).y, key := (writeReg s r d).key, sArr := (writeReg s r d).sArr }) ∨
    (locked r = false ∧ r ≠ .ctrl ∧ r ≠ .status ∧ writeReg s r d = s) := by
  cases r with
  | ctrl =>
    by_cases h : d.getLsbD 1 = true
    · exact .inl ⟨rfl, h, by simp [writeReg, writeCtrl, h]⟩
    · rw [Bool.not_eq_true] at h
      exact .inr (.inl ⟨rfl, h, by simp only [writeReg, writeCtrl, h, Bool.false_eq_true, if_false]⟩)
  | status => exact .inr (.inr (.inl ⟨rfl, rfl⟩))
  | cmd => exact .inr (.inr (.inr (.inl ⟨rfl, rfl⟩)))
  | cfg => exact .inr (.inr (.inr (.inr (.inl ⟨rfl, by simp, by simp only [writeReg]⟩))))
  | keylen => exact .inr (.inr (.inr (.inr (.inl ⟨rfl, by simp, by simp only [writeReg]⟩))))
  | slen => exact .inr (.inr (.inr (.inr (.inl ⟨rfl, by simp, by simp only [writeReg]⟩))))
  | key k => exact .inr (.inr (.inr (.inr (.inl ⟨rfl, by simp, by simp only [writeReg]⟩))))
  | sSlot i l => exact .inr (.inr (.inr (.inr (.inl ⟨rfl, by simp, by simp only [writeReg, writeSlotS]⟩))))
  | lane r l =>
    cases r with
    | a => exact .inr (.inr (.inr (.inr (.inl ⟨rfl, by simp, by simp only [writeReg, writeLane]⟩))))
    | b => exact .inr (.inr (.inr (.inr (.inl ⟨rfl, by simp, by simp only [writeReg, writeLane]⟩))))
    | x => exact .inr (.inr (.inr (.inr (.inl ⟨rfl, by simp, by simp only [writeReg, writeLane]⟩))))
    | y => exact .inr (.inr (.inr (.inr (.inl ⟨rfl, by simp, by simp only [writeReg, writeLane]⟩))))
    | z => exact .inr (.inr (.inr (.inr (.inr ⟨rfl, by simp, by simp, rfl⟩))))
  | id => exact .inr (.inr (.inr (.inr (.inr ⟨rfl, by simp, by simp, rfl⟩))))
  | cap => exact .inr (.inr (.inr (.inr (.inr ⟨rfl, by simp, by simp, rfl⟩))))
  | llen => exact .inr (.inr (.inr (.inr (.inr ⟨rfl, by simp, by simp, rfl⟩))))
  | lSlot j l => exact .inr (.inr (.inr (.inr (.inr ⟨rfl, by simp, by simp, rfl⟩))))
  | reserved => exact .inr (.inr (.inr (.inr (.inr ⟨rfl, by simp, by simp, rfl⟩))))

/-! ### The register map, read backwards (20_memory.md R55) -/

/-- The aperture's ranges above the control registers. -/
theorem regAt_windows (off : Nat) (h0 : 0x40 ≤ off) :
    (off < 0x50 ∧ regAt off = .lane .a (Fin.ofNat 4 (off / 4))) ∨
    (0x50 ≤ off ∧ off < 0x60 ∧ regAt off = .lane .b (Fin.ofNat 4 (off / 4))) ∨
    (0x60 ≤ off ∧ off < 0x70 ∧ regAt off = .lane .x (Fin.ofNat 4 (off / 4))) ∨
    (0x70 ≤ off ∧ off < 0x80 ∧ regAt off = .lane .y (Fin.ofNat 4 (off / 4))) ∨
    (0x80 ≤ off ∧ off < 0x90 ∧ regAt off = .lane .z (Fin.ofNat 4 (off / 4))) ∨
    (0x90 ≤ off ∧ off < 0x100 ∧ regAt off = .reserved) ∨
    (0x100 ≤ off ∧ off < 0x200 ∧ regAt off = .key (Fin.ofNat 64 ((off - 0x100) / 4))) ∨
    (0x200 ≤ off ∧ off < 0x1000 ∧ regAt off = .reserved) ∨
    (0x1000 ≤ off ∧ off < 0x2000 ∧ regAt off = .lSlot (Fin.ofNat 256 ((off - 0x1000) / 16)) (Fin.ofNat 4 (off / 4))) ∨
    (0x2000 ≤ off ∧ off < 0x4000 ∧ regAt off = .sSlot (Fin.ofNat 512 ((off - 0x2000) / 16)) (Fin.ofNat 4 (off / 4))) ∨
    (0x4000 ≤ off ∧ regAt off = .reserved) := by
  have h1 : ¬ off < 0x40 := by omega
  rcases Nat.lt_or_ge off 0x50 with h2 | h2
  · exact .inl ⟨h2, by simp only [regAt, h1, h2, if_true, if_false]⟩
  refine .inr ?_
  rcases Nat.lt_or_ge off 0x60 with h3 | h3
  · exact .inl ⟨h2, h3, by simp only [regAt, h1, Nat.not_lt.mpr h2, h3, if_true, if_false]⟩
  refine .inr ?_
  rcases Nat.lt_or_ge off 0x70 with h4 | h4
  · exact .inl ⟨h3, h4, by simp only [regAt, h1, Nat.not_lt.mpr h2, Nat.not_lt.mpr h3, h4, if_true, if_false]⟩
  refine .inr ?_
  rcases Nat.lt_or_ge off 0x80 with h5 | h5
  · exact .inl ⟨h4, h5, by
      simp only [regAt, h1, Nat.not_lt.mpr h2, Nat.not_lt.mpr h3, Nat.not_lt.mpr h4, h5, if_true, if_false]⟩
  refine .inr ?_
  have n2 := Nat.not_lt.mpr h2
  have n3 := Nat.not_lt.mpr h3
  have n4 := Nat.not_lt.mpr h4
  have n5 := Nat.not_lt.mpr h5
  rcases Nat.lt_or_ge off 0x90 with h6 | h6
  · exact .inl ⟨h5, h6, by simp only [regAt, h1, n2, n3, n4, n5, h6, if_true, if_false]⟩
  refine .inr ?_
  have n6 := Nat.not_lt.mpr h6
  rcases Nat.lt_or_ge off 0x100 with h7 | h7
  · exact .inl ⟨h6, h7, by simp only [regAt, h1, n2, n3, n4, n5, n6, h7, if_true, if_false]⟩
  refine .inr ?_
  have n7 := Nat.not_lt.mpr h7
  rcases Nat.lt_or_ge off 0x200 with h8 | h8
  · exact .inl ⟨h7, h8, by simp only [regAt, h1, n2, n3, n4, n5, n6, n7, h8, if_true, if_false]⟩
  refine .inr ?_
  have n8 := Nat.not_lt.mpr h8
  rcases Nat.lt_or_ge off 0x1000 with h9 | h9
  · exact .inl ⟨h8, h9, by simp only [regAt, h1, n2, n3, n4, n5, n6, n7, n8, h9, if_true, if_false]⟩
  refine .inr ?_
  have n9 := Nat.not_lt.mpr h9
  rcases Nat.lt_or_ge off 0x2000 with h10 | h10
  · exact .inl ⟨h9, h10, by simp only [regAt, h1, n2, n3, n4, n5, n6, n7, n8, n9, h10, if_true, if_false]⟩
  refine .inr ?_
  have n10 := Nat.not_lt.mpr h10
  rcases Nat.lt_or_ge off 0x4000 with h11 | h11
  · exact .inl ⟨h10, h11, by simp only [regAt, h1, n2, n3, n4, n5, n6, n7, n8, n9, n10, h11, if_true, if_false]⟩
  · exact .inr ⟨h11, by simp only [regAt, h1, n2, n3, n4, n5, n6, n7, n8, n9, n10, Nat.not_lt.mpr h11, if_false]⟩

/-- Which offset names a control register. -/
theorem regAt_control (off : Nat) :
    (regAt off = .id ↔ off = 0x00) ∧ (regAt off = .cap ↔ off = 0x04) ∧ (regAt off = .ctrl ↔ off = 0x08) ∧
    (regAt off = .status ↔ off = 0x0C) ∧ (regAt off = .cmd ↔ off = 0x10) ∧ (regAt off = .cfg ↔ off = 0x14) ∧
    (regAt off = .keylen ↔ off = 0x18) ∧ (regAt off = .slen ↔ off = 0x1C) ∧ (regAt off = .llen ↔ off = 0x20) := by
  by_cases h0 : off < 0x40
  · have all : ∀ o : Fin 64, (regAt o = .id ↔ o.val = 0x00) ∧ (regAt o = .cap ↔ o.val = 0x04) ∧
        (regAt o = .ctrl ↔ o.val = 0x08) ∧ (regAt o = .status ↔ o.val = 0x0C) ∧ (regAt o = .cmd ↔ o.val = 0x10) ∧
        (regAt o = .cfg ↔ o.val = 0x14) ∧ (regAt o = .keylen ↔ o.val = 0x18) ∧ (regAt o = .slen ↔ o.val = 0x1C) ∧
        (regAt o = .llen ↔ o.val = 0x20) := by decide
    exact all ⟨off, h0⟩
  · have n : ∀ m < 0x40, off ≠ m := fun m hm => by omega
    rcases regAt_windows off (by omega) with ⟨-, h⟩ | ⟨-, -, h⟩ | ⟨-, -, h⟩ | ⟨-, -, h⟩ | ⟨-, -, h⟩ | ⟨-, -, h⟩ | ⟨-, -, h⟩ |
      ⟨-, -, h⟩ | ⟨-, -, h⟩ | ⟨-, -, h⟩ | ⟨-, h⟩ <;> simp [h, n]

end Sys2Proof.Machine
end

