-- ==== Sys2Proof/Laws/PerInstr.lean ====
section
/-! SUPPORT. One lemma per command about its encoding (30_encoding.md R74, R76). -/

namespace Sys2Proof.Laws.EncodedWord

/-- The command's word is a legal command word, and the command is decoded from it and from its four bytes. -/
def Statement (i : Instr) : Prop :=
  (CommandWord.ofWord (encode i)).wf = true ∧ decodeWord (encode i) = .ok i ∧ decodeBytes (encodeBytes i) = .ok i

theorem nop : Statement .nop := by unfold Statement; decide
theorem setkey : Statement .setkey := by unfold Statement; decide
theorem encrypt : Statement .encrypt := by unfold Statement; decide
theorem decrypt : Statement .decrypt := by unfold Statement; decide
theorem magicp : Statement .magicp := by unfold Statement; decide
theorem magicq : Statement .magicq := by unfold Statement; decide
theorem packkey : Statement .packkey := by unfold Statement; decide
theorem add : Statement .add := by unfold Statement; decide
theorem sub : Statement .sub := by unfold Statement; decide
theorem rotl : Statement .rotl := by unfold Statement; decide
theorem rotr : Statement .rotr := by unfold Statement; decide
theorem xor : Statement .xor := by unfold Statement; decide

end Sys2Proof.Laws.EncodedWord
end

