-- ==== Sys2Proof/Tests/Slice0.lean ====
section
/-! SUPPORT. Tests: well-formedness, decoding, one-step vectors of 95_test_vectors.md, and a witness for every statement that has
hypotheses. -/

namespace Sys2Proof.Tests

set_option Elab.async false

open Sys2Proof Sys2Proof.Machine

/-! ### Helpers -/

/-- A field of the next state, none when there is no next state. -/
def after {α : Type} (o : Host.Outcome State Fault Refusal) (f : State → α) : Option α :=
  match o with
  | .next t => some (f t)
  | .fault _ => none
  | .refused _ => none

/-- The reset state with the given CFG fields. -/
def cfgState (ws : BitVec 3) (rounds : BitVec 10) : State := { State.reset with wSel := ws, rounds := rounds }

/-- The reset state with CFG, X and Y. -/
def xyState (ws : BitVec 3) (x y : Slot) : State := { cfgState ws 12 with x := x, y := y }

/-- The reset state with CFG, KEYLEN and the key bytes 00 01 02 .. (95_test_vectors.md). -/
def keyState (ws : BitVec 3) (rounds : BitVec 10) (keylen : BitVec 9) : State :=
  { cfgState ws rounds with keylen := keylen, key := Vector.ofFn fun n => BitVec.ofNat 8 n }

/-- V-CE-8: RC5-32/0, S host-written, SLEN = 2. -/
def cipherState (a b : Slot) : State :=
  { cfgState 2 0 with
    slen := 2, a := a, b := b
    sArr := Vector.ofFn fun i => if i.val = 0 then 0x11111111 else if i.val = 1 then 0x22222222 else 0 }

/-- V-CE-9: RC5-16/1 with the S of V-KS-4. -/
def roundState (a b : Slot) : State :=
  { cfgState 1 1 with
    slen := 4, a := a, b := b
    sArr := Vector.ofFn fun i =>
      if i.val = 0 then 0x68D4 else if i.val = 1 then 0xEEFF else if i.val = 2 then 0x047C else if i.val = 3 then 0xF307 else 0 }

/-- The reset state with a command word pending. -/
def busyState (c : CommandWord) : State := { State.reset with eng := .busy c }

/-- A state with some turns to come. -/
def withTurns (s : State) (ts : List Turn) : State := { s with agenda := ts }

/-! ### Well-formedness (30_encoding.md R75, R77; 20_memory.md R51, R53) -/

theorem test_wf_refuses_reserved_bits :
    CommandWord.rsvClear ⟨0x01, 1⟩ = false ∧ CommandWord.wf ⟨0x01, 1⟩ = false ∧ CommandWord.wf ⟨0x00, 0x800000⟩ = false := by decide

theorem test_wf_refuses_unassigned_opcodes :
    CommandWord.opAssigned ⟨0x07, 0⟩ = false ∧ CommandWord.wf ⟨0x07, 0⟩ = false ∧ CommandWord.wf ⟨0x0F, 0⟩ = false ∧
      CommandWord.wf ⟨0x15, 0⟩ = false ∧ CommandWord.wf ⟨0xFF, 0⟩ = false := by decide

theorem test_wf_accepts_opcodes : CommandWord.wf ⟨0x06, 0⟩ = true ∧ CommandWord.wf ⟨0x10, 0⟩ = true ∧ CommandWord.wf ⟨0x14, 0⟩ = true := by
  decide

theorem test_wf_refuses_access_size :
    Access.sizeLegal ⟨0x10, .two, .read⟩ = false ∧ Access.wf Config.rc5core ⟨0x10, .two, .read⟩ = false ∧
      Access.wf Config.rc5core ⟨0x10, .one, .write 1⟩ = false := by decide

theorem test_wf_refuses_misaligned_access :
    Access.aligned Config.rc5core ⟨0x12, .four, .read⟩ = false ∧ Access.wf Config.rc5core ⟨0x12, .four, .read⟩ = false := by decide

theorem test_wf_refuses_access_outside :
    Access.inAperture ⟨0x1F, 2⟩ ⟨0x7FFC, .four, .read⟩ = false ∧ Access.wf ⟨0x1F, 2⟩ ⟨0xC000, .four, .read⟩ = false ∧
      Access.wf ⟨0x1F, 2⟩ ⟨0xBFFC, .four, .read⟩ = true ∧ Access.wf ⟨0x1F, 2⟩ ⟨0x8000, .four, .read⟩ = true := by decide

/-! ### Decoding: words written out from 30_encoding.md R74, R76 -/

theorem test_decode_control_words :
    decodeWord 0b00000000000000000000000000000000 = .ok .nop ∧ decodeWord 0b00000000000000000000000000000001 = .ok .setkey ∧
      decodeWord 0b00000000000000000000000000000010 = .ok .encrypt ∧ decodeWord 0b00000000000000000000000000000011 = .ok .decrypt := by
  decide

theorem test_decode_constant_and_packing_words :
    decodeWord 0b00000000000000000000000000000100 = .ok .magicp ∧ decodeWord 0b00000000000000000000000000000101 = .ok .magicq ∧
      decodeWord 0b00000000000000000000000000000110 = .ok .packkey := by decide

theorem test_decode_primitive_words :
    decodeWord 0b00000000000000000000000000010000 = .ok .add ∧ decodeWord 0b00000000000000000000000000010001 = .ok .sub ∧
      decodeWord 0b00000000000000000000000000010010 = .ok .rotl ∧ decodeWord 0b00000000000000000000000000010011 = .ok .rotr ∧
      decodeWord 0b00000000000000000000000000010100 = .ok .xor := by decide

theorem test_decode_refuses_illegal_words :
    decodeWord 0x07 = .error .unassignedOpcode ∧ decodeWord 0x15 = .error .unassignedOpcode ∧ decodeWord 0xFF = .error .unassignedOpcode ∧
      decodeWord 0x101 = .error .reservedBits ∧ decodeWord 0x80000000 = .error .reservedBits := by decide

theorem test_decode_bytes :
    decodeBytes [0x14, 0, 0, 0] = .ok .xor ∧ decodeBytes [0, 0, 0, 0x14] = .error .reservedBits ∧
      decodeBytes [0x14, 0, 0] = .error .notOneWord ∧ decodeBytes [0x14, 0, 0, 0, 0] = .error .notOneWord := by decide

theorem test_decode_table_words :
    decodeTableWord 32 0x12 = some .rotl ∧ decodeTableWord 8 0x01 = some .setkey ∧ decodeTableWord 32 0x112 = none ∧
      decodeTableWord 64 0x12 = none := by decide

theorem test_encode_bytes_are_little_endian : encodeBytes .rotr = [0x13, 0, 0, 0] := by decide

/-! ### One completion step each (95_test_vectors.md) -/

theorem test_add_wraps : after (exec .add (xyState 0 0xFF 0x01)) (fun t => t.z) = some 0x00 := by decide +kernel -- V-WA-1

theorem test_add_ignores_high_bits : after (exec .add (xyState 2 0x100000005 0x3)) (fun t => t.z) = some 0x8 := by decide +kernel -- V-WA-6

theorem test_sub_borrows : after (exec .sub (xyState 0 0x00 0x01)) (fun t => t.z) = some 0xFF := by decide +kernel -- V-WA-7

theorem test_sub_wraps : after (exec .sub (xyState 2 0x5 0x7)) (fun t => t.z) = some 0xFFFFFFFE := by decide +kernel -- V-WA-8

theorem test_rotl_uses_all_of_y : -- V-WA-15
    after (exec .rotl (xyState 2 0x12345678 0xFFFFFFFFFFFFFFFFFFFFFFFFFFFFFFFF)) (fun t => t.z) = some 0x091A2B3C := by decide +kernel

theorem test_rotl_drops_high_bits : after (exec .rotl (xyState 2 0xF12345678 4)) (fun t => t.z) = some 0x23456781 := by decide +kernel -- V-WA-20

theorem test_rotr_amount_above_width : after (exec .rotr (xyState 2 0x12345678 36)) (fun t => t.z) = some 0x81234567 := by decide +kernel -- V-WA-24

theorem test_rotr_byte : after (exec .rotr (xyState 0 0x81 3)) (fun t => t.z) = some 0x30 := by decide +kernel -- V-WA-22

theorem test_xor_drops_high_bit : after (exec .xor (xyState 0 0x1AB 0x0F)) (fun t => t.z) = some 0xA4 := by decide +kernel -- V-WA-27

theorem test_xor_unimplemented_width : -- V-WA-28's rule for XOR
    after (exec .xor (xyState 5 1 2)) (fun t => (t.z, statusWord t)) = some (0, 0x102) := by decide +kernel

theorem test_packkey_words : -- V-WA-29
    after (exec .packkey (keyState 2 12 8)) (fun t => (t.lArr[0], t.lArr[1], t.llen)) = some (0x03020100, 0x07060504, 2) := by decide +kernel

theorem test_packkey_partial_word : -- V-WA-34
    after (exec .packkey (keyState 2 12 5)) (fun t => (t.llen, statusWord t)) = some (0, 0x302) := by decide +kernel

theorem test_magicp_16 : after (exec .magicp (cfgState 1 12)) (fun t => t.z) = some 0xB7E1 := by decide +kernel -- V-MC-2

theorem test_magicp_any_rounds : -- V-ERR-10
    after (exec .magicp (cfgState 4 1023)) (fun t => (t.z, statusWord t)) = some (0xB7E151628AED2A6ABF7158809CF4F3C7, 0x2) := by
  decide +kernel

theorem test_magicq_64 : after (exec .magicq (cfgState 3 12)) (fun t => t.z) = some 0x9E3779B97F4A7C15 := by decide +kernel -- V-MC-4

theorem test_magicq_no_width : after (exec .magicq (cfgState 6 12)) (fun t => (t.z, t.errcode)) = some (0, 1) := by decide +kernel -- V-MC-6

theorem test_setkey_zero_rounds : -- V-KS-3
    after (exec .setkey (keyState 0 0 0)) (fun t => (t.sArr[0], t.sArr[1], t.lArr[0], t.slen, t.llen)) = some (0xC6, 0x34, 0xDC, 2, 1) := by decide +kernel

theorem test_setkey_pads_the_key : -- V-KS-4
    after (exec .setkey { cfgState 1 1 with keylen := 3, key := Vector.ofFn fun n => BitVec.ofNat 8 (n + 1) })
      (fun t => (t.sArr[0], t.sArr[3], t.lArr[0], t.lArr[1], t.slen)) = some (0x68D4, 0xF307, 0x05C2, 0x1DB0, 4) := by decide +kernel

theorem test_encrypt_one_round : -- V-CE-9
    after (exec .encrypt (roundState 0x1234 0x5678)) (fun t => (t.a, t.b)) = some (0x441B, 0x5312) := by decide +kernel

theorem test_encrypt_errors_in_order : -- V-ERR-7 and V-ERR-8, at r = 0
    after (exec .encrypt { cipherState 0x100000000 0 with slen := 1 }) (fun t => t.errcode) = some 5 ∧
      after (exec .encrypt (cipherState 0x100000000 0)) (fun t => (t.errcode, t.a)) = some (4, 0x100000000) := by decide +kernel

theorem test_decrypt_zero_rounds : -- V-CE-8, the other way
    after (exec .decrypt (cipherState 0x11111112 0x22222221)) (fun t => (t.a, t.b)) = some (0x00000001, 0xFFFFFFFF) := by decide +kernel

theorem test_decrypt_one_round : -- V-CE-9, the other way
    after (exec .decrypt (roundState 0x441B 0x5312)) (fun t => (t.a, t.b)) = some (0x1234, 0x5678) := by decide +kernel

theorem test_nop_writes_status_only : -- V-CC-2
    after (exec .nop (cfgState 7 12)) (fun t => (statusWord t, cfgWord t)) = some (0x2, 0xC07) := by decide +kernel

theorem test_illegal_word_before_width : -- V-CC-6
    after (step { cfgState 7 12 with eng := .busy ⟨0x15, 0⟩ }) (fun t => statusWord t) = some 0x602 := by decide +kernel

/-! ### The bus (95_test_vectors.md V-CC-7 to V-CC-10) -/

theorem test_busy_write_overruns : -- V-CC-8
    after (hostTurn (Ref.writeAt State.reset 0x18 5) (busyState ⟨0x06, 0⟩)) (fun t => (t.keylen, t.ovr)) = some (16, true) := by decide +kernel

theorem test_status_write_one_to_clear : -- V-CC-9
    after (hostTurn (Ref.writeAt State.reset 0x0C 4) { State.reset with done := true, ovr := true }) (fun t => statusWord t) = some 0x2 := by
  decide +kernel

theorem test_reset_values_on_the_bus :
    readReg State.reset (regAt 0x00) = 0x52433501 ∧ readReg State.reset (regAt 0x04) = 0x00FFFF1F ∧
      readReg State.reset (regAt 0x14) = 0x00000C02 ∧ readReg State.reset (regAt 0x18) = 0x10 := by decide +kernel

theorem test_placed_word_runs : -- withFetchWord, then V-MC-3 by the first step after reset
    after (step (State.reset.withFetchWord 32 0x04)) (fun t => (t.z, statusWord t)) = some (0xB7E15163, 0x2) := by decide +kernel

/-! ### Witnesses: for each statement with hypotheses, a state and operands that meet them, clause by clause -/

theorem witness_CompletionSelectsExactlyOneCommand :
    ((busyState ⟨0x02, 0⟩).eng = .busy ⟨0x02, 0⟩ ∧ Ref.engineMoves (busyState ⟨0x02, 0⟩) ∧ ¬ Ref.illegalWord ⟨0x02, 0⟩) ∧
      Ref.engineMoves (withTurns (busyState ⟨0x0F, 0⟩) [.engine, .hardReset]) ∧ Ref.illegalWord ⟨0x0F, 0⟩ ∧ Ref.illegalWord ⟨0x07, 0⟩ ∧
      Ref.illegalWord ⟨0x15, 0⟩ ∧ Ref.illegalWord ⟨0x01, 1⟩ ∧ ¬ Ref.illegalWord ⟨0x06, 0⟩ ∧ ¬ Ref.illegalWord ⟨0x10, 0⟩ ∧
      ¬ Ref.illegalWord ⟨0x14, 0⟩ :=
  ⟨⟨rfl, .inl rfl, by unfold Ref.illegalWord; decide⟩, .inr ⟨_, rfl⟩, by unfold Ref.illegalWord; decide⟩

theorem witness_StepRunsTheDecodedCommand :
    (busyState ⟨0x13, 0⟩).eng = .busy ⟨0x13, 0⟩ ∧ decode ⟨0x13, 0⟩ = .ok .rotr ∧ (busyState ⟨0x13, 0⟩).agenda = [] ∧
      (withTurns (busyState ⟨0x13, 0⟩) [.engine]).agenda = .engine :: [] := ⟨rfl, by decide, rfl, rfl⟩

theorem witness_CmdWriteAcceptsOrOverruns : State.reset.eng = .idle ∧ (busyState ⟨0, 0⟩).eng ≠ .idle := ⟨rfl, nofun⟩

theorem witness_EngineMovesOnlyByCmdWriteCompletionOrReset :
    (∃ t, step (withTurns State.reset [.host (Ref.writeAt State.reset 0x10 1)]) = .next t ∧ t.eng = .busy ⟨1, 0⟩) ∧
      (∃ t, step (busyState ⟨0x00, 0⟩) = .next t ∧ t.eng = .idle) ∧
      ∃ t, step (withTurns (busyState ⟨0x00, 0⟩) [.host (Ref.readAt State.reset 0x0C)]) = .next t ∧ t.eng = .busy ⟨0, 0⟩ :=
  ⟨⟨_, rfl, rfl⟩, ⟨_, rfl, rfl⟩, ⟨_, rfl, rfl⟩⟩

theorem witness_NopWritesOnlyStatus : (cfgState 7 12).eng = .idle := rfl

theorem witness_IllegalCommandReportsCodeSix :
    (busyState ⟨0xFF, 0xFFFFFF⟩).eng = .busy ⟨0xFF, 0xFFFFFF⟩ ∧ Ref.illegalWord ⟨0xFF, 0xFFFFFF⟩ :=
  ⟨rfl, by unfold Ref.illegalWord; decide⟩

/-- Accesses that neither get ERROR nor reset the block: a read, a dropped write, a STATUS write, a CTRL write, one outside. -/
def quietAccesses : List Access :=
  [Ref.readAt State.reset 0x40, Ref.writeAt State.reset 0x100 1, Ref.writeAt State.reset 0x0C 6, Ref.writeAt State.reset 0x08 1,
    ⟨0x4000, .one, .write 2⟩]

theorem witness_CommandIsAFunctionOfTheAcceptedState :
    (busyState ⟨0x01, 0⟩).eng ≠ .idle ∧ ∀ a ∈ quietAccesses, Ref.quiet (busyState ⟨0x01, 0⟩).config a :=
  ⟨nofun, by unfold Ref.quiet; decide +kernel⟩

theorem witness_PendingCommandCompletes :
    (withTurns (busyState ⟨0x01, 0⟩) (quietAccesses.map .host)).eng ≠ .idle ∧
      ∀ u ∈ (withTurns (busyState ⟨0x01, 0⟩) (quietAccesses.map .host)).agenda,
        u.legal (busyState ⟨0x01, 0⟩).config = true ∧ u.resets (busyState ⟨0x01, 0⟩).config = false :=
  ⟨nofun, by decide +kernel⟩

theorem widthOk_32 : Ref.widthOk (cfgState 2 12) := by unfold Ref.widthOk; decide +kernel

theorem width_reserved : ¬ Ref.widthOk (cfgState 5 12) := by unfold Ref.widthOk; decide +kernel

theorem witness_FirstErrorIsReported :
    Ref.firstError .add (cfgState 5 12) ≠ 0 ∧ Ref.firstError .nop (cfgState 5 12) = 0 ∧
      (busyState ⟨0x07, 0⟩).eng = .busy ⟨0x07, 0⟩ ∧ Ref.illegalWord ⟨0x07, 0⟩ := by
  refine ⟨?_, ?_, rfl, by unfold Ref.illegalWord; decide⟩
  · rw [Ref.firstError, if_pos ⟨by unfold Ref.usesWidth; decide, width_reserved⟩]; decide
  · simp [Ref.firstError, Ref.usesWidth, Ref.usesRounds, Ref.usesKeyLen, Ref.isCipher]

theorem witness_FailedCommandWritesOnlyStatus :
    (busyState ⟨0x07, 0⟩).eng ≠ .idle ∧ (busyState ⟨0x07, 0⟩).errcode = 0 ∧
      ∃ t, engineTurn (busyState ⟨0x07, 0⟩) = .next t ∧ t.errcode ≠ 0 := ⟨nofun, rfl, _, rfl, by decide⟩

theorem witness_ErrcodeKeepsItsValue :
    (∃ t, step (busyState ⟨0x07, 0⟩) = .next t ∧ t.errcode ≠ (busyState ⟨0x07, 0⟩).errcode) ∧
      (∃ t, step { withTurns State.reset [.host (Ref.writeAt State.reset 0x10 1)] with errcode := 3 } = .next t ∧ t.errcode ≠ 3) ∧
      ∃ t, step { withTurns State.reset [.hardReset] with errcode := 3 } = .next t ∧ t.errcode ≠ 3 :=
  ⟨⟨_, rfl, by decide⟩, ⟨_, rfl, by decide⟩, ⟨_, rfl, by decide⟩⟩

theorem witness_OvrStaysUntilCleared :
    (∃ t, step { withTurns State.reset [.host (Ref.writeAt State.reset 0x0C 4)] with ovr := true } = .next t ∧ t.ovr = false) ∧
      ∃ t, step { withTurns State.reset [.host (Ref.writeAt State.reset 0x08 2)] with ovr := true } = .next t ∧ t.ovr = false :=
  ⟨⟨_, rfl, rfl⟩, ⟨_, rfl, rfl⟩⟩

theorem witness_RotationsFollowTheirFormulas : 3 % Width.w8.bits ≠ 0 ∧ 255 % Width.w128.bits ≠ 0 := by decide

theorem witness_PrimitiveLaws : ∃ ws, bytesToWords .w16 [1, 2, 3, 4] = .ok ws := ⟨_, rfl⟩

theorem witness_PackingIsLittleEndian :
    [1, 2, 3].length % Width.w32.bytes ≠ 0 ∧ ([] : List Byte).length % Width.w32.bytes = 0 ∧
      [1, 2, 3, 4].length % Width.w32.bytes = 0 ∧ ∃ ws, bytesToWords .w32 [1, 2, 3, 4] = .ok ws ∧ 0 < ws.length :=
  ⟨by decide, by decide, by decide, _, rfl, by decide⟩

theorem witness_KeyPackingPadsWithZeros : ∃ ws, keyWords .w32 [1, 2, 3] = .ok ws ∧ 0 < ws.length := ⟨_, rfl, by decide⟩

theorem witness_UnpackingGivesTheBytes : 0 < [(5 : Word .w128)].length ∧ 15 < Width.w128.bytes := by decide

/-- Both sides of the width check, for the five primitives, MAGICP and MAGICQ: all widths, a reserved one, one not implemented. -/
theorem witness_width_checks :
    Ref.widthOk (cfgState 0 12) ∧ Ref.widthOk (cfgState 4 12) ∧ ¬ Ref.widthOk (cfgState 5 12) ∧
      ¬ Ref.widthOk { cfgState 2 12 with config := ⟨0b11011, 0⟩ } := by unfold Ref.widthOk; decide +kernel

theorem witness_PackkeyPacksTheKey :
    ¬ Ref.widthOk (keyState 5 12 8) ∧ Ref.widthOk (keyState 2 12 256) ∧ (keyState 2 12 256).keylen.toNat > 255 ∧
      (Ref.widthOk (keyState 2 12 255) ∧ (keyState 2 12 255).keylen.toNat ≤ 255 ∧
        (keyState 2 12 255).keylen.toNat % Ref.bytes (keyState 2 12 255) ≠ 0) ∧
      (Ref.widthOk (keyState 0 12 255) ∧ (keyState 0 12 255).keylen.toNat % Ref.bytes (keyState 0 12 255) = 0) ∧
      (keyState 2 12 0).keylen.toNat % Ref.bytes (keyState 2 12 0) = 0 := by unfold Ref.widthOk; decide +kernel

theorem witness_InitialScheduleIsArithmeticProgression : 0 < 2 ∧ 0 + 1 < 2 := by decide

theorem witness_SetkeyDerivesTheExpandedKey :
    ¬ Ref.widthOk (keyState 7 300 300) ∧ (Ref.widthOk (keyState 2 256 16) ∧ (keyState 2 256 16).rounds.toNat > 255) ∧
      (Ref.widthOk (keyState 2 12 256) ∧ (keyState 2 12 256).keylen.toNat > 255) ∧
      Ref.widthOk (keyState 4 255 255) ∧ (keyState 4 255 255).rounds.toNat ≤ 255 ∧ (keyState 4 255 255).keylen.toNat ≤ 255 := by
  unfold Ref.widthOk; decide +kernel

theorem witness_SetkeyDependsOnlyOnKeyAndParameters :
    (Ref.widthOk (keyState 2 12 16) ∧ (keyState 2 12 16).rounds.toNat ≤ 255 ∧ (keyState 2 12 16).keylen.toNat ≤ 255 ∧
        ∀ n < 16, Ref.keyByte { keyState 2 12 16 with a := 1, key := Vector.ofFn fun n => if n.val < 16 then BitVec.ofNat 8 n else 9 } n =
          Ref.keyByte (keyState 2 12 16) n) ∧
      (∃ t, exec .setkey (keyState 2 12 16) = .next t) ∧
      ∃ t, exec .setkey { keyState 2 12 16 with a := 1, key := Vector.ofFn fun n => if n.val < 16 then BitVec.ofNat 8 n else 9 } = .next t :=
  ⟨by unfold Ref.widthOk; decide +kernel, exec_isNext _ _, exec_isNext _ _⟩

theorem cipherOk_zero_rounds : Ref.widthOk (cipherState 1 0xFFFFFFFF) ∧ Ref.cipherOk (cipherState 1 0xFFFFFFFF) := by
  unfold Ref.widthOk Ref.cipherOk; decide +kernel

theorem cipherOk_one_round : Ref.widthOk (roundState 0x1234 0xFFFF) ∧ Ref.cipherOk (roundState 0x1234 0xFFFF) := by
  unfold Ref.widthOk Ref.cipherOk; decide +kernel

/-- For ENCRYPT, DECRYPT (both clauses), their round trip and the zero-round case. -/
theorem witness_cipher :
    (Ref.widthOk (roundState 0x1234 0xFFFF) ∧ Ref.cipherOk (roundState 0x1234 0xFFFF)) ∧
      (Ref.widthOk (cipherState 1 0xFFFFFFFF) ∧ Ref.cipherOk (cipherState 1 0xFFFFFFFF) ∧ (cipherState 1 0xFFFFFFFF).rounds = 0) ∧
      ¬ (Ref.widthOk (cfgState 5 12) ∧ Ref.cipherOk (cfgState 5 12)) :=
  ⟨cipherOk_one_round, ⟨cipherOk_zero_rounds.1, cipherOk_zero_rounds.2, rfl⟩, fun h => width_reserved h.1⟩

theorem witness_CipherInputsAreChecked :
    ¬ Ref.widthOk (cfgState 5 256) ∧ (Ref.widthOk (cfgState 2 256) ∧ (cfgState 2 256).rounds.toNat > 255) ∧
      (Ref.widthOk (cfgState 2 255) ∧ (cfgState 2 255).rounds.toNat ≤ 255 ∧ (cfgState 2 255).slen.toNat ≠ 2 * (cfgState 2 255).rounds.toNat + 2) ∧
      (Ref.widthOk (cipherState 0x100000000 0) ∧ (cipherState 0x100000000 0).slen.toNat = 2 * (cipherState 0x100000000 0).rounds.toNat + 2 ∧
        Ref.blockTooWide (cipherState 0x100000000 0)) ∧
      Ref.blockTooWide (cipherState 0 0x100000000) ∧ Ref.blockTooWide { cipherState 0 0 with wSel := 1 } := by
  unfold Ref.widthOk Ref.blockTooWide; decide +kernel

theorem witness_ResultsAreZeroExtended :
    (Ref.firstError .xor (cfgState 2 12) = 0 ∧ ∃ t, exec .xor (cfgState 2 12) = .next t) ∧
      (Ref.firstError .setkey (keyState 2 12 16) = 0 ∧ ∃ t, exec .setkey (keyState 2 12 16) = .next t) ∧
      (Ref.firstError .packkey (keyState 2 12 16) = 0 ∧ ∃ t, exec .packkey (keyState 2 12 16) = .next t) ∧
      Ref.firstError .encrypt (roundState 0x1234 0xFFFF) = 0 ∧ ∃ t, exec .encrypt (roundState 0x1234 0xFFFF) = .next t := by
  have h1 : (keyState 2 12 16).rounds.toNat ≤ 255 ∧ (keyState 2 12 16).keylen.toNat ≤ 255 ∧
      (keyState 2 12 16).keylen.toNat % Ref.bytes (keyState 2 12 16) = 0 ∧ Ref.widthOk (keyState 2 12 16) := by
    unfold Ref.widthOk; decide +kernel
  have h2 := cipherOk_one_round
  have h3 : ¬ Ref.blockTooWide (roundState 0x1234 0xFFFF) := by unfold Ref.blockTooWide; decide +kernel
  have h4 : (roundState 0x1234 0xFFFF).slen.toNat = 2 * ((roundState 0x1234 0xFFFF).rounds.toNat + 1) := by decide +kernel
  have h5 := widthOk_32
  generalize keyState 2 12 16 = k at *
  generalize roundState 0x1234 0xFFFF = r at *
  generalize cfgState 2 12 = c at *
  refine ⟨⟨?_, exec_isNext _ _⟩, ⟨?_, exec_isNext _ _⟩, ⟨?_, exec_isNext _ _⟩, ?_, exec_isNext _ _⟩
  · simp [Ref.firstError, Ref.usesRounds, Ref.usesKeyLen, Ref.isCipher, h5]
  · simp [Ref.firstError, Ref.usesRounds, Ref.usesKeyLen, Ref.isCipher, h1.2.2.2, Nat.not_lt.mpr h1.1, Nat.not_lt.mpr h1.2.1]
  · simp [Ref.firstError, Ref.usesRounds, Ref.usesKeyLen, Ref.isCipher, h1.2.2.2, h1.2.2.1, Nat.not_lt.mpr h1.2.1]
  · simp [Ref.firstError, Ref.usesRounds, Ref.usesKeyLen, Ref.isCipher, h2.1, Nat.not_lt.mpr h2.2.1, h3, h4]

theorem witness_CommandsWriteOnlyTheirDestinations :
    (∃ t, exec .setkey (keyState 2 12 16) = .next t) ∧ Ref.offset 0x100 ∧ ¬ Ref.writesOffset .setkey 0x100 ∧ Ref.offset 0x3FFC ∧
      ¬ Ref.writesOffset .packkey 0x3FFC ∧ ¬ Ref.writesOffset .encrypt 0x60 ∧ ¬ Ref.writesOffset .add 0x7C ∧ ¬ Ref.writesOffset .nop 0x80 :=
  ⟨exec_isNext _ _, by unfold Ref.offset; decide, by unfold Ref.writesOffset; decide, by unfold Ref.offset; decide,
    by unfold Ref.writesOffset; decide, by unfold Ref.writesOffset; decide, by unfold Ref.writesOffset; decide, nofun⟩

theorem witness_KeyChangesOnlyByHostWriteOrReset :
    (∃ t, step (withTurns State.reset [.host (Ref.writeAt State.reset 0x1FC 0x01000000)]) = .next t ∧ t.key[255] ≠ State.reset.key[255]) ∧
      ∃ t, step (withTurns (keyState 2 12 16) [.hardReset]) = .next t ∧ t.key[1] ≠ (keyState 2 12 16).key[1] :=
  ⟨⟨_, rfl, by decide +kernel⟩, ⟨_, rfl, by decide +kernel⟩⟩

theorem witness_IllegalAccessGetsError :
    Access.inAperture State.reset.config ⟨0x3FFF, .one, .read⟩ = true ∧ Access.inAperture State.reset.config ⟨0x02, .four, .write 0⟩ = true ∧
      (0x02 - State.reset.config.base) % 4 ≠ 0 ∧ Access.inAperture State.reset.config ⟨0x3FFC, .four, .read⟩ = true ∧
      (0x3FFC - State.reset.config.base) % 4 = 0 := by decide

theorem witness_OnlyBusErrorsStopTheMachine :
    step (withTurns State.reset [.host ⟨0x0D, .four, .write 0⟩]) = .fault .busError := rfl

theorem witness_AccessOutsideTheApertureHasNoEffect :
    State.reset.config.base + 0x3FFF < 0x4000 ∧ 0x7FFF < (Config.base ⟨0b11111, 2⟩) := by decide

theorem witness_KeyRegisterHoldsFourBytes : State.reset.eng = .idle := rfl

theorem witness_LanesAreIndependent :
    State.reset.eng = .idle ∧ (Ref.holds State.reset 0x40 State.reset.a ∧ Ref.lockedOffset 0x40) ∧
      (Ref.holds State.reset 0x3FF0 State.reset.sArr[(511 : Fin 512)] ∧ Ref.lockedOffset 0x3FF0) ∧ Ref.holds State.reset 0x80 State.reset.z :=
  ⟨rfl, ⟨.inl ⟨.a, rfl, rfl⟩, by unfold Ref.lockedOffset; decide⟩,
    ⟨.inr (.inl ⟨511, rfl, rfl⟩), by unfold Ref.lockedOffset; decide⟩, .inl ⟨.z, rfl, rfl⟩⟩

theorem witness_WriteThenReadBack :
    State.reset.eng = .idle ∧ (Ref.offset 0x14 ∧ Ref.lockedOffset 0x14) ∧ (Ref.offset 0x1C ∧ Ref.lockedOffset 0x1C) ∧
      (Ref.offset 0x7C ∧ Ref.lockedOffset 0x7C) ∧ (Ref.offset 0x1FC ∧ Ref.lockedOffset 0x1FC) ∧ Ref.offset 0x3FFC ∧ Ref.lockedOffset 0x3FFC :=
  ⟨rfl, by unfold Ref.offset Ref.lockedOffset; decide⟩

theorem witness_ReservedAndReadOnlyIgnoreWrites :
    (Ref.offset 0x24 ∧ Ref.reservedOffset 0x24) ∧ (Ref.offset 0xFFC ∧ Ref.reservedOffset 0xFFC) ∧ (Ref.offset 0x20 ∧ Ref.readOnlyOffset 0x20) ∧
      (Ref.offset 0x8C ∧ Ref.readOnlyOffset 0x8C) ∧ Ref.offset 0x10 := by
  unfold Ref.offset Ref.reservedOffset Ref.readOnlyOffset; decide

theorem witness_ReadsChangeNoState : Ref.offset 0x3FFC ∧ Ref.offset 0 := by unfold Ref.offset; decide

theorem witness_BusyWindowDropsLockedWrites :
    (busyState ⟨0x00, 0⟩).eng ≠ .idle ∧ (Ref.offset 0x40 ∧ Ref.lockedOffset 0x40) ∧ (Ref.offset 0x2000 ∧ Ref.lockedOffset 0x2000) ∧
      (1 : BusWord).getLsbD 1 = false ∧ (3 : BusWord).getLsbD 1 = true := ⟨nofun, by unfold Ref.offset Ref.lockedOffset; decide⟩

theorem witness_BusyWindowReadsOfDestinationsAreFree :
    ((busyState ⟨0x03, 0⟩).eng = .busy ⟨0x03, 0⟩ ∧ decode ⟨0x03, 0⟩ = .ok .decrypt ∧ Ref.offset 0x5C ∧ Ref.writesOffset .decrypt 0x5C) ∧
      ((busyState ⟨0x10, 0⟩).eng = .busy ⟨0x10, 0⟩ ∧ Ref.offset 0x60 ∧ ∀ i, decode ⟨0x10, 0⟩ = .ok i → ¬ Ref.writesOffset i 0x60) ∧
      State.reset.eng = .idle := by
  refine ⟨⟨rfl, by decide, by unfold Ref.offset; decide, by unfold Ref.writesOffset; decide⟩, ⟨rfl, by unfold Ref.offset; decide, ?_⟩, rfl⟩
  intro i h
  cases h
  exact fun h => by unfold Ref.writesOffset at h; omega

theorem witness_CtrlHoldsTheInterruptEnable : (1 : BusWord).getLsbD 1 = false ∧ (3 : BusWord).getLsbD 1 = true := by decide

theorem witness_IrqReportsCompletion :
    (∃ t, step { busyState ⟨0x00, 0⟩ with ie := true } = .next t ∧ irq { busyState ⟨0x00, 0⟩ with ie := true } = false ∧ irq t = true) ∧
      (∃ t, step { withTurns State.reset [.host (Ref.writeAt State.reset 0x08 1)] with done := true } = .next t ∧ irq t = true) ∧
      (busyState ⟨0x07, 0⟩).eng ≠ .idle ∧ ∃ t, engineTurn (busyState ⟨0x07, 0⟩) = .next t :=
  ⟨⟨_, rfl, rfl, rfl⟩, ⟨_, rfl, rfl⟩, nofun, _, rfl⟩

theorem witness_BusViewIsWordsToBytes :
    Ref.holds State.reset 0x80 State.reset.z ∧ Ref.holds State.reset 0x3FF0 State.reset.sArr[(511 : Fin 512)] ∧
      Ref.holds State.reset 0x1000 State.reset.lArr[(0 : Fin 256)] ∧ 0 < Width.w8.bytes ∧ Width.w8.bytes ≤ 1 :=
  ⟨.inl ⟨.z, rfl, rfl⟩, .inr (.inl ⟨511, rfl, rfl⟩), .inr (.inr ⟨0, rfl, rfl⟩), by decide⟩

theorem witness_ResetDiscardsThePendingCommand : (2 : BusWord).getLsbD 1 = true ∧ (0xFFFFFFFF : BusWord).getLsbD 1 = true := by decide

theorem witness_StepKeepsTheInvariant : State.reset.Inv ∧ step State.reset = .next State.reset := ⟨by decide, rfl⟩

end Sys2Proof.Tests
end

section
/-! SUPPORT. A host's write at an aligned offset of the aperture, and the register map read backwards (20_memory.md R51, R55, R65). -/

namespace Sys2Proof.Machine

/-! ### A host's write at an offset -/

@[simp] theorem writeAt_addr_sub_base (s : State) (off : Nat) (d : BusWord) :
    (Ref.writeAt s off d).addr - s.config.base = off := Nat.add_sub_cancel_left ..

theorem writeAt_wf {off : Nat} (h : Ref.offset off) (s : State) (d : BusWord) :
    (Ref.writeAt s off d).wf s.config = true := by
  obtain ⟨hlt, haligned⟩ := h
  rw [wf_iff, inAperture_iff, writeAt_addr_sub_base]
  exact ⟨⟨Nat.le_add_right .., Nat.add_lt_add_left hlt _⟩, rfl, haligned⟩

/-- A write that the lock does not drop is performed and answered OKAY (R65). -/
theorem hostTurn_writeAt_performed {s : State} {off : Nat} (d : BusWord) (h : Ref.offset off)
    (hopen : (locked (regAt off) && isBusy s) = false) :
    hostTurn (Ref.writeAt s off d) s = .next { writeReg s (regAt off) d with busOut := some .writeOkay } := by
  have hwf := writeAt_wf h s d
  rcases hostTurn_cases (Ref.writeAt s off d) s with ⟨hout, -⟩ | ⟨-, hbad, -⟩ | ⟨-, hread, -⟩ | ⟨-, hread, -⟩ |
    ⟨_, -, -, hlocked, hbusy, -⟩ | ⟨d', -, hwrite, -, hturn⟩
  · rw [wf_iff, hout] at hwf; exact absurd hwf.1 Bool.false_ne_true
  · rw [hwf] at hbad; exact absurd hbad.symm Bool.false_ne_true
  · cases hread
  · cases hread
  · rw [writeAt_addr_sub_base] at hlocked; simp [hlocked, hbusy] at hopen
  · cases hwrite; rwa [writeAt_addr_sub_base] at hturn

/-! ### The register map read backwards (R55) -/

/-- The offset of a register; a reserved word has no register to place. -/
def Reg.offset : Reg → Nat
  | .id => 0x00
  | .cap => 0x04
  | .ctrl => 0x08
  | .status => 0x0C
  | .cmd => 0x10
  | .cfg => 0x14
  | .keylen => 0x18
  | .slen => 0x1C
  | .llen => 0x20
  | .lane r l => Ref.firstOffset r + 4 * l
  | .key k => 0x100 + 4 * k
  | .lSlot j l => 0x1000 + 16 * j + 4 * l
  | .sSlot i l => 0x2000 + 16 * i + 4 * l
  | .reserved => 0

/-- An aligned offset is that of the register it names. -/
theorem regAt_offset {off : Nat} (h : Ref.offset off) (hr : regAt off ≠ .reserved) : (regAt off).offset = off := by
  obtain ⟨hlt, haligned⟩ := h
  by_cases hctl : off < 0x40
  · have control : ∀ o < 0x40, o % 4 = 0 → regAt o ≠ .reserved → (regAt o).offset = o := by decide
    exact control off hctl haligned hr
  · rcases regAt_windows off (by omega) with ⟨_, e⟩ | ⟨_, _, e⟩ | ⟨_, _, e⟩ | ⟨_, _, e⟩ | ⟨_, _, e⟩ | ⟨_, _, e⟩ | ⟨_, _, e⟩ |
      ⟨_, _, e⟩ | ⟨_, _, e⟩ | ⟨_, _, e⟩ | ⟨_, e⟩ <;>
      simp only [e, ne_eq, not_true_eq_false] at hr ⊢ <;>
      simp only [Reg.offset, Ref.firstOffset, Fin.ofNat] <;> omega

/-- Two aligned offsets that name one register are equal. -/
theorem regAt_injective {off off' : Nat} (h : Ref.offset off) (h' : Ref.offset off') (hr : regAt off ≠ .reserved)
    (heq : regAt off' = regAt off) : off' = off := by
  rw [← regAt_offset h hr, ← regAt_offset h' (heq ▸ hr), heq]

/-- The registers the model locks are those at the offsets R55 marks as locked. -/
theorem locked_regAt_iff {off : Nat} (h : Ref.offset off) : locked (regAt off) = true ↔ Ref.lockedOffset off := by
  obtain ⟨hlt, haligned⟩ := h
  unfold Ref.lockedOffset
  by_cases hctl : off < 0x40
  · have control : ∀ o < 0x40, o % 4 = 0 → (locked (regAt o) = true ↔ 0x10 ≤ o ∧ o ≤ 0x1C) := by decide
    rw [control off hctl haligned]
    omega
  · rcases regAt_windows off (by omega) with ⟨_, e⟩ | ⟨_, _, e⟩ | ⟨_, _, e⟩ | ⟨_, _, e⟩ | ⟨_, _, e⟩ | ⟨_, _, e⟩ | ⟨_, _, e⟩ |
      ⟨_, _, e⟩ | ⟨_, _, e⟩ | ⟨_, _, e⟩ | ⟨_, e⟩ <;> simp only [e, locked, true_iff, false_iff, Bool.false_eq_true] <;> omega

/-- The KEY registers lie at 0x100 to 0x1FC (R58). -/
theorem regAt_eq_key {off : Nat} {k : Fin 64} (h : Ref.offset off) (hk : regAt off = .key k) : 0x100 ≤ off ∧ off ≤ 0x1FC := by
  have hoff : (regAt off).offset = off := regAt_offset h (by simp [hk])
  rw [hk] at hoff
  simp only [Reg.offset] at hoff
  omega

end Sys2Proof.Machine
end

section
/-! SUPPORT. What a register reads after a performed write to it or to another register (20_memory.md R56 to R62). -/

namespace Sys2Proof.Machine

/-! ### Fields of bus words -/

theorem append_toNat {m n : Nat} (u : BitVec m) (v : BitVec n) : (u ++ v).toNat = u.toNat * 2 ^ n + v.toNat := by
  rw [BitVec.toNat_append, ← Nat.shiftLeft_add_eq_or_of_lt v.isLt, Nat.shiftLeft_eq]

theorem ctrlWord_toNat (s : State) : (ctrlWord s).toNat = s.ie.toNat := by
  rw [ctrlWord, append_toNat, BitVec.toNat_ofBool, BitVec.toNat_ofNat, Nat.zero_mod, Nat.zero_mul, Nat.zero_add]

theorem isBusy_toNat (s : State) : (isBusy s).toNat = if s.eng = .idle then 0 else 1 := by
  cases h : s.eng <;> simp [isBusy, h]

/-- The bits of STATUS (10_state.md R23). -/
theorem statusWord_toNat (s : State) : (statusWord s).toNat =
    (if s.eng = .idle then 0 else 1) + 2 * s.done.toNat + 4 * s.ovr.toNat + 256 * s.errcode.toNat := by
  simp only [statusWord, append_toNat, BitVec.toNat_ofBool, BitVec.toNat_ofNat, isBusy_toNat]
  omega

/-- The low bits of a written word, read back zero-extended. -/
theorem setWidth_extractLsb'_eq_and (d : BusWord) (n : Nat) (h : n ≤ 32) :
    (d.extractLsb' 0 n).setWidth 32 = d &&& BitVec.ofNat 32 (2 ^ n - 1) := by
  apply BitVec.eq_of_toNat_eq
  have hpow : 2 ^ n ≤ 2 ^ 32 := Nat.pow_le_pow_right (by decide) h
  have hlow : d.toNat % 2 ^ n < 2 ^ 32 := lt_of_lt_of_le (Nat.mod_lt _ (by positivity)) hpow
  have hmask : 2 ^ n - 1 < 2 ^ 32 := lt_of_lt_of_le (Nat.sub_lt (by positivity) one_pos) hpow
  rw [BitVec.toNat_setWidth, BitVec.extractLsb'_toNat, Nat.shiftRight_zero, BitVec.toNat_and, BitVec.toNat_ofNat,
    Nat.mod_eq_of_lt hmask, Nat.and_two_pow_sub_one_eq_mod, Nat.mod_eq_of_lt hlow]

/-- W_SEL [2:0] and ROUNDS [17:8] of a written word, read back with the reserved bits 0 (10_state.md R24). -/
theorem cfgFields_eq_and (d : BusWord) :
    BitVec.ofNat 14 0 ++ d.extractLsb' 8 10 ++ BitVec.ofNat 5 0 ++ d.extractLsb' 0 3 = d &&& 0x3FF07 := by
  have pieces : d = d.extractLsb' 18 14 ++ d.extractLsb' 8 10 ++ d.extractLsb' 3 5 ++ d.extractLsb' 0 3 := by
    rw [BitVec.extractLsb'_append_extractLsb'_eq_extractLsb', BitVec.extractLsb'_append_extractLsb'_eq_extractLsb',
      BitVec.extractLsb'_append_extractLsb'_eq_extractLsb', BitVec.extractLsb'_eq_self] <;> rfl
  have mask : (0x3FF07 : BusWord) = BitVec.ofNat 14 0 ++ BitVec.allOnes 10 ++ BitVec.ofNat 5 0 ++ BitVec.allOnes 3 := rfl
  conv_rhs => rw [pieces, mask]
  rw [BitVec.and_append, BitVec.and_append, BitVec.and_append, BitVec.and_allOnes, BitVec.and_allOnes]
  simp only [BitVec.and_zero]

/-! ### Lanes -/

@[simp] theorem getLane_setLane_same (v : Slot) (l : Fin 4) (d : BusWord) : getLane (setLane v l d) l = d := by
  apply BitVec.eq_of_getLsbD_eq
  intro m hm
  rw [getLane_getLsbD, setLane_getLsbD _ _ _ _ (by omega), if_pos (by omega), Nat.add_sub_cancel_left]
  simp [hm]

theorem getLane_setLane_other (v : Slot) {l m : Fin 4} (d : BusWord) (h : m ≠ l) :
    getLane (setLane v l d) m = getLane v m := by
  apply BitVec.eq_of_getLsbD_eq
  intro k hk
  have hne : m.val ≠ l.val := Fin.val_ne_of_ne h
  rw [getLane_getLsbD, getLane_getLsbD, setLane_getLsbD _ _ _ _ (by omega), if_neg (by omega)]

/-! ### KEY registers -/

/-- The byte n of KEY after a write of d to register k (20_memory.md R58). -/
theorem setKeyReg_getD (key : Vector Byte 256) (k : Fin 64) (d : BusWord) (n : Nat) (hn : n < 256) :
    (setKeyReg key k d).toList.getD n 0 = if n / 4 = k.val then byteOfBusWord d (n % 4) else key.toList.getD n 0 := by
  simp [setKeyReg, List.getD_eq_getElem?_getD, hn]

@[simp] theorem busWordOfBytes_byteOfBusWord (d : BusWord) :
    busWordOfBytes (byteOfBusWord d 0) (byteOfBusWord d 1) (byteOfBusWord d 2) (byteOfBusWord d 3) = d := by
  unfold busWordOfBytes byteOfBusWord
  rw [BitVec.extractLsb'_append_extractLsb'_eq_extractLsb', BitVec.extractLsb'_append_extractLsb'_eq_extractLsb',
    BitVec.extractLsb'_append_extractLsb'_eq_extractLsb', BitVec.extractLsb'_eq_self] <;> rfl

theorem getKeyReg_write_same (s : State) (k : Fin 64) (d : BusWord) :
    getKeyReg { s with key := setKeyReg s.key k d } k = d := by
  have byte : ∀ m < 4, (setKeyReg s.key k d).toList.getD (4 * k + m) 0 = byteOfBusWord d m := fun m hm => by
    rw [setKeyReg_getD _ _ _ _ (by omega), if_pos (by omega), show (4 * k.val + m) % 4 = m by omega]
  have byte0 := byte 0 (by decide)
  rw [Nat.add_zero] at byte0
  rw [getKeyReg, byte0, byte 1 (by decide), byte 2 (by decide), byte 3 (by decide), busWordOfBytes_byteOfBusWord]

theorem getKeyReg_write_other (s : State) {k m : Fin 64} (d : BusWord) (h : m ≠ k) :
    getKeyReg { s with key := setKeyReg s.key k d } m = getKeyReg s m := by
  have hne : m.val ≠ k.val := Fin.val_ne_of_ne h
  have byte : ∀ n, n / 4 = m.val → (setKeyReg s.key k d).toList.getD n 0 = s.key.toList.getD n 0 := fun n hn => by
    rw [setKeyReg_getD _ _ _ _ (by omega), if_neg (by omega)]
  rw [getKeyReg, byte _ (by omega), byte _ (by omega), byte _ (by omega), byte _ (by omega), getKeyReg]

/-! ### Word registers and slots -/

theorem getWordReg_writeLane_same (s : State) {w : WordReg} (l : Fin 4) (d : BusWord) (hw : w ≠ .z) :
    getWordReg (writeLane s w l d) w = setLane (getWordReg s w) l d := by
  cases w with
  | z => exact absurd rfl hw
  | _ => rfl

theorem getWordReg_writeLane_other (s : State) {w w' : WordReg} (l : Fin 4) (d : BusWord) (hw : w' ≠ w) :
    getWordReg (writeLane s w l d) w' = getWordReg s w' := by
  cases w <;> cases w' <;> simp [getWordReg, writeLane] at hw ⊢

theorem writeSlotS_getElem_same (s : State) (i : Fin 512) (l : Fin 4) (d : BusWord) :
    (writeSlotS s i l d).sArr[i] = setLane s.sArr[i] l d := by simp

theorem writeSlotS_getElem_other (s : State) {i j : Fin 512} (l : Fin 4) (d : BusWord) (h : j ≠ i) :
    (writeSlotS s i l d).sArr[j] = s.sArr[j] := by
  have hval : i.val ≠ j.val := Fin.val_ne_of_ne h.symm
  simp [hval]

/-! ### Reading back a write -/

/-- The bits of a register that a write stores; the others are reserved (R61). -/
def implementedBits : Reg → BusWord
  | .cfg => 0x3FF07
  | .keylen => 0x1FF
  | .slen => 0x3FF
  | _ => BitVec.allOnes 32

theorem and_implementedBits_regAt (d : BusWord) (off : Nat) : d &&& implementedBits (regAt off) =
    if off = 0x14 then d &&& 0x3FF07 else if off = 0x18 then d &&& 0x1FF else if off = 0x1C then d &&& 0x3FF else d := by
  obtain ⟨-, -, -, -, -, hcfg, hkeylen, hslen, -⟩ := regAt_control off
  simp only [← hcfg, ← hkeylen, ← hslen]
  cases regAt off with
  | cfg | keylen | slen => rfl
  | _ => exact BitVec.and_allOnes

/-- The last response is no register. -/
@[simp] theorem readReg_busOut (s : State) (o : Option Response) (r : Reg) : readReg { s with busOut := o } r = readReg s r := by
  cases r with
  | lane w l => cases w <;> rfl
  | _ => rfl

/-- A performed write to a locked register other than CMD is read back in its implemented bits. -/
theorem readReg_writeReg_same (s : State) {r : Reg} (d : BusWord) (hlocked : locked r = true) (hcmd : r ≠ .cmd) :
    readReg (writeReg s r d) r = d &&& implementedBits r := by
  cases r with
  | cmd => exact absurd rfl hcmd
  | cfg => exact cfgFields_eq_and d
  | keylen => exact setWidth_extractLsb'_eq_and d 9 (by decide)
  | slen => exact setWidth_extractLsb'_eq_and d 10 (by decide)
  | lane w l =>
    have hw : w ≠ .z := fun hz => by subst hz; cases hlocked
    show getLane (getWordReg (writeLane s w l d) w) l = d &&& BitVec.allOnes 32
    rw [getWordReg_writeLane_same s l d hw, getLane_setLane_same, BitVec.and_allOnes]
  | key k =>
    show getKeyReg { s with key := setKeyReg s.key k d } k = d &&& BitVec.allOnes 32
    rw [getKeyReg_write_same, BitVec.and_allOnes]
  | sSlot i l =>
    show getLane (writeSlotS s i l d).sArr[i] l = d &&& BitVec.allOnes 32
    rw [writeSlotS_getElem_same, getLane_setLane_same, BitVec.and_allOnes]
  | id | cap | ctrl | status | llen | lSlot _ _ | reserved => cases hlocked

/-- A write to a lane of a word register changes no other register. -/
theorem readReg_writeLane_other (s : State) (w : WordReg) (l : Fin 4) (d : BusWord) {r : Reg} (hne : r ≠ .lane w l) :
    readReg (writeLane s w l d) r = readReg s r := by
  cases r with
  | lane w' l' =>
    show getLane (getWordReg (writeLane s w l d) w') l' = getLane (getWordReg s w') l'
    by_cases hw : w' = w
    · subst hw
      have hl : l' ≠ l := fun h => hne (h ▸ rfl)
      by_cases hz : w' = .z
      · subst hz; rfl
      · rw [getWordReg_writeLane_same s l d hz, getLane_setLane_other _ d hl]
    · rw [getWordReg_writeLane_other s l d hw]
  | _ => cases w <;> rfl

/-- A write to a lane of S changes no other register. -/
theorem readReg_writeSlotS_other (s : State) (i : Fin 512) (l : Fin 4) (d : BusWord) {r : Reg} (hne : r ≠ .sSlot i l) :
    readReg (writeSlotS s i l d) r = readReg s r := by
  cases r with
  | sSlot j m =>
    show getLane (writeSlotS s i l d).sArr[j] m = getLane s.sArr[j] m
    by_cases hj : j = i
    · subst hj
      have hm : m ≠ l := fun h => hne (h ▸ rfl)
      rw [writeSlotS_getElem_same, getLane_setLane_other _ d hm]
    · rw [writeSlotS_getElem_other s l d hj]
  | lane w _ => cases w <;> rfl
  | _ => rfl

/-- New contents of KEY change no register but the KEY registers. -/
theorem readReg_key_frame (s : State) (bytes : Vector Byte 256) {r : Reg} (hne : ∀ k, r ≠ .key k) :
    readReg { s with key := bytes } r = readReg s r := by
  cases r with
  | key k => exact absurd rfl (hne k)
  | lane w _ => cases w <;> rfl
  | _ => rfl

/-- A write to a KEY register changes no other register. -/
theorem readReg_writeKey_other (s : State) (k : Fin 64) (d : BusWord) {r : Reg} (hne : r ≠ .key k) :
    readReg { s with key := setKeyReg s.key k d } r = readReg s r := by
  by_cases hkey : ∃ m, r = .key m
  · obtain ⟨m, rfl⟩ := hkey
    exact getKeyReg_write_other s d fun h => hne (h ▸ rfl)
  · exact readReg_key_frame s _ (not_exists.mp hkey)

/-- A performed write to a locked register other than CMD changes no other register. -/
theorem readReg_writeReg_other (s : State) {r r' : Reg} (d : BusWord) (hlocked : locked r = true) (hcmd : r ≠ .cmd)
    (hne : r' ≠ r) : readReg (writeReg s r d) r' = readReg s r' := by
  cases r with
  | cmd => exact absurd rfl hcmd
  | lane w l => exact readReg_writeLane_other s w l d hne
  | sSlot i l => exact readReg_writeSlotS_other s i l d hne
  | key k => exact readReg_writeKey_other s k d hne
  | cfg | keylen | slen =>
    cases r' with
    | cfg | keylen | slen => simp [readReg, writeReg, cfgWord] at hne ⊢
    | lane w _ => cases w <;> rfl
    | _ => rfl
  | id | cap | ctrl | status | llen | lSlot _ _ | reserved => cases hlocked

end Sys2Proof.Machine
end

section
/-! SUPPORT. Which steps change KEY (10_state.md R32). -/

namespace Sys2Proof.Machine

/-- A completion step never writes KEY. -/
theorem engineTurn_key {s t : State} (h : engineTurn s = .next t) : t.key = s.key := by
  rcases engineTurn_next h with ⟨-, rfl⟩ | ⟨-, ⟨e, rfl⟩ | ⟨hs, -⟩⟩
  · rfl
  · exact failWith_key e s
  · rw [hs]

/-- A performed write that changes KEY is a soft reset or a write to a KEY register. -/
theorem writeReg_changes_key {s : State} {r : Reg} {d : BusWord} (h : (writeReg s r d).key ≠ s.key) :
    (r = .ctrl ∧ d.getLsbD 1 = true) ∨ ∃ k, r = .key k := by
  rcases writeReg_cases s r d with ⟨hr, hd, -⟩ | ⟨-, -, hw⟩ | ⟨-, hw⟩ | ⟨-, hw⟩ | ⟨hlocked, -, -⟩ | ⟨-, -, -, hw⟩
  · exact .inl ⟨hr, hd⟩
  · rw [hw] at h; exact absurd rfl h
  · rw [hw] at h; exact absurd (writeStatus_key s d) h
  · rw [hw] at h; exact absurd (accept_key _ s) h
  · cases r with
    | key k => exact .inr ⟨k, rfl⟩
    | lane w l => cases w <;> exact absurd rfl h
    | id | cap | ctrl | status | llen | lSlot _ _ | reserved => cases hlocked
    | _ => exact absurd rfl h
  · rw [hw] at h; exact absurd rfl h

/-- A host access that changes KEY is a soft reset, or a write to a KEY register of an idle block. -/
theorem hostTurn_changes_key {s t : State} {a : Access} (hnext : hostTurn a s = .next t) (hkey : t.key ≠ s.key) :
    Turn.resets s.config (.host a) = true ∨ ∃ d, a.kind = .write d ∧ s.eng = .idle ∧
      s.config.base + 0x100 ≤ a.addr ∧ a.addr ≤ s.config.base + 0x1FC := by
  rcases hostTurn_cases a s with ⟨-, hturn⟩ | ⟨-, -, hturn⟩ | ⟨-, -, -, hturn⟩ | ⟨-, -, -, hturn⟩ |
    ⟨_, -, -, -, -, hturn⟩ | ⟨d, hwf, hkind, hopen, hturn⟩ <;> rw [hturn] at hnext <;> cases hnext
  -- Outside the aperture, the two kinds of read, and a dropped write: KEY is as before.
  iterate 4 exact absurd rfl hkey
  rcases writeReg_changes_key hkey with ⟨hctrl, hsrst⟩ | ⟨k, hk⟩
  · obtain ⟨-, -, hctrlIff, -⟩ := regAt_control (a.addr - s.config.base)
    exact .inl (by simp [Turn.resets, hkind, hwf, hctrlIff.mp hctrl, hsrst])
  · have hidle : s.eng = .idle := by
      by_contra hbusy
      simp [hk, locked, (isBusy_iff s).mpr hbusy] at hopen
    obtain ⟨hin, -, haligned⟩ := (wf_iff _ _).mp hwf
    obtain ⟨hbase, hlt⟩ := (inAperture_iff _ _).mp hin
    have hwindow := regAt_eq_key ⟨by omega, haligned⟩ hk
    exact .inr ⟨d, hkind, hidle, by omega, by omega⟩

/-- The registers a soft reset leaves, whatever the bus last answered (70_reset_and_hazards.md R171). -/
theorem atReset_resetBlock (s : State) (o : Option Response) : Ref.atReset { resetBlock s with busOut := o } := by
  have hkey : ∀ n : Fin 256, (resetBlock s).key[n] = 0 := fun n => by simp
  have hstatus : statusWord (resetBlock s) = 0 := by
    rw [statusWord, resetBlock_errcode, resetBlock_ovr, resetBlock_done, isBusy_false (resetBlock_eng s)]; decide
  have hcfg : cfgWord (resetBlock s) = 0xC02 := by rw [cfgWord, resetBlock_rounds, resetBlock_wSel]; decide
  exact ⟨rfl, rfl, hstatus, hcfg, rfl, rfl, rfl, rfl, rfl, rfl, rfl, rfl, hkey⟩

end Sys2Proof.Machine
end

section
/-! The obligations on STATUS, CTRL, KEY and the writable registers (10_state.md). -/

namespace Sys2Proof.Proofs

open Sys2Proof Sys2Proof.Machine

/-- Settles O41: the engine's turn never writes KEY, and a host turn that does is a soft reset or an unlocked KEY write. -/
theorem keyChangesOnlyByHostWriteOrReset : Obligations.KeyChangesOnlyByHostWriteOrReset := by
  intro s t hstep hkey
  cases hagenda : s.agenda with
  | nil =>
    rw [step_nil hagenda] at hstep
    exact absurd (engineTurn_key hstep) hkey
  | cons u rest =>
    rw [step_cons hagenda] at hstep
    refine ⟨u, rest, rfl, ?_⟩
    cases u with
    | engine => exact absurd (engineTurn_key hstep) hkey
    | hardReset => exact .inl rfl
    | host a =>
      rcases hostTurn_changes_key hstep hkey with hreset | ⟨d, hkind, hidle, hlow, hhigh⟩
      · exact .inl hreset
      · exact .inr ⟨a, d, rfl, hkind, hidle, hlow, hhigh⟩

/-- Settles O48: the write is performed since the block is idle; distinct offsets name distinct registers, and a write to a
locked register is read back in its implemented bits and leaves every other register. -/
theorem writeThenReadBack : Obligations.WriteThenReadBack := by
  intro s off off' d hidle hoff hoff' hlockedOff hnotCmd
  have hlocked : locked (regAt off) = true := (locked_regAt_iff hoff).mpr hlockedOff
  obtain ⟨-, -, -, -, hcmdIff, hcfgIff, hkeylenIff, hslenIff, -⟩ := regAt_control off
  have hcmd : regAt off ≠ .cmd := fun h => hnotCmd (hcmdIff.mp h)
  refine ⟨_, hostTurn_writeAt_performed d hoff (by simp [isBusy_false hidle]), ?_⟩
  rw [readReg_busOut]
  by_cases hsame : off' = off
  · subst hsame
    rw [if_neg (not_not.mpr rfl), readReg_writeReg_same s d hlocked hcmd, and_implementedBits_regAt]
  · have hreserved : regAt off ≠ .reserved := fun h => by rw [h] at hlocked; cases hlocked
    rw [if_pos hsame]
    exact readReg_writeReg_other s d hlocked hcmd fun h => hsame (regAt_injective hoff hoff' hreserved h)

/-- Settles O53: STATUS is not locked, so its write is performed at any time. -/
theorem statusBitsAndWriteOneToClear : Obligations.StatusBitsAndWriteOneToClear := fun s d =>
  ⟨statusWord_toNat s, hostTurn_writeAt_performed (off := 0x0C) d (by unfold Ref.offset; decide) rfl⟩

/-- Settles O54: CTRL is not locked, so its write is performed at any time, by SRST as a soft reset. -/
theorem ctrlHoldsTheInterruptEnable : Obligations.CtrlHoldsTheInterruptEnable := by
  refine ⟨rfl, fun s d => ?_⟩
  have hturn : hostTurn (Ref.writeAt s 0x08 d) s = .next { writeCtrl s d with busOut := some .writeOkay } :=
    hostTurn_writeAt_performed d (by unfold Ref.offset; decide) rfl
  refine ⟨ctrlWord_toNat s, fun hie => ?_, fun hsrst => ⟨_, hturn, ?_⟩, rfl⟩
  · rw [hturn, writeCtrl, hie]; rfl
  · rw [writeCtrl, if_pos hsrst]; exact atReset_resetBlock s _

end Sys2Proof.Proofs
end

section
/-! SUPPORT. Which accesses get the ERROR response, and what stops the machine (20_memory.md R51, R53, R54). -/

namespace Sys2Proof.Machine

/-- In the aperture an access is illegal when it is not an aligned 4-byte one. -/
theorem wf_eq_false_iff {c : Config} {a : Access} (hin : a.inAperture c = true) :
    a.wf c = false ↔ a.size ≠ .four ∨ (a.addr - c.base) % 4 ≠ 0 := by
  rw [← Bool.not_eq_true, wf_iff, not_and, not_and_or]
  exact ⟨fun h => h hin, fun h _ => h⟩

/-- R53: an access in the aperture that is not legal changes nothing and is answered ERROR with read data 0. -/
theorem busAccess_of_not_wf {s : State} {a : Access} (hin : a.inAperture s.config = true) (hwf : a.wf s.config = false) :
    busAccess a s = (s, some (.error 0)) := by
  have hbad : (a.sizeLegal && a.aligned s.config) = false := by
    rwa [Access.wf, Bool.and_assoc, hin, Bool.true_and] at hwf
  simp only [busAccess, hin, hbad, if_true, Bool.false_eq_true, if_false]

/-- R54: an ERROR response stops the host program. -/
theorem hostTurn_of_error {s : State} {a : Access} {d : BusWord} (h : (busAccess a s).2 = some (.error d)) :
    hostTurn a s = .fault .busError := by
  obtain ⟨t, hpair⟩ : ∃ t, busAccess a s = (t, some (.error d)) := ⟨_, Prod.ext rfl h⟩
  simp only [hostTurn, hpair]

/-- The host's turn faults exactly on an access in the aperture that is not legal. -/
theorem hostTurn_fault_iff (a : Access) (s : State) (f : Fault) : hostTurn a s = .fault f ↔
    f = .busError ∧ a.inAperture s.config = true ∧ a.wf s.config = false := by
  constructor
  · intro hfault
    rcases hostTurn_cases a s with ⟨-, hturn⟩ | ⟨hin, hbad, -⟩ | ⟨-, -, -, hturn⟩ | ⟨-, -, -, hturn⟩ |
      ⟨_, -, -, -, -, hturn⟩ | ⟨_, -, -, -, hturn⟩
    case inr.inl => exact ⟨by cases f; rfl, hin, hbad⟩
    all_goals rw [hturn] at hfault; cases hfault
  · rintro ⟨rfl, hin, hbad⟩
    exact hostTurn_of_error (d := 0) (by rw [busAccess_of_not_wf hin hbad])

theorem hostTurn_ne_refused (a : Access) (s : State) (r : Refusal) : hostTurn a s ≠ .refused r := by
  rcases hostTurn_cases a s with ⟨-, hturn⟩ | ⟨-, -, hturn⟩ | ⟨-, -, -, hturn⟩ | ⟨-, -, -, hturn⟩ |
    ⟨_, -, -, -, -, hturn⟩ | ⟨_, -, -, -, hturn⟩ <;> rw [hturn] <;> exact nofun

/-- A step answers a next state, or it is the host's turn. -/
theorem step_isNext_or_host (s : State) : (∃ t, step s = .next t) ∨
    ∃ a rest, s.agenda = .host a :: rest ∧ step s = hostTurn a { s with agenda := rest } := by
  cases hagenda : s.agenda with
  | nil => rw [step_nil hagenda]; exact .inl (engineTurn_isNext s)
  | cons u rest =>
    rw [step_cons hagenda]
    cases u with
    | host a => exact .inr ⟨a, rest, rfl, rfl⟩
    | engine => exact .inl (engineTurn_isNext _)
    | hardReset => exact .inl ⟨_, rfl⟩

end Sys2Proof.Machine
end

section
/-! SUPPORT. A host's read at an aligned offset and a dropped write (20_memory.md R63, R65, R66), which offsets are reserved and
which a command may write (R61, 30_encoding.md R76), and the register map read forwards (R55, R58 to R60). -/

namespace Sys2Proof.Machine

/-! ### A host's access at an offset -/

@[simp] theorem readAt_addr_sub_base (s : State) (off : Nat) : (Ref.readAt s off).addr - s.config.base = off :=
  Nat.add_sub_cancel_left ..

theorem readAt_wf {off : Nat} (h : Ref.offset off) (s : State) : (Ref.readAt s off).wf s.config = true := by
  obtain ⟨hlt, haligned⟩ := h
  rw [wf_iff, inAperture_iff, readAt_addr_sub_base]
  exact ⟨⟨Nat.le_add_right .., Nat.add_lt_add_left hlt _⟩, rfl, haligned⟩

theorem inAperture_of_wf {c : Config} {a : Access} (h : a.wf c = true) : a.inAperture c = true := ((wf_iff c a).mp h).1

/-- A read takes a free draw for a pending destination, and else the register's current value (R66). -/
theorem hostTurn_readAt {off : Nat} (h : Ref.offset off) (s : State) : hostTurn (Ref.readAt s off) s = .next
    (if pendingDest s (regAt off) then
      { s with draws := s.draws + 1, busOut := some (.readOkay (Config.freeRead s.draws)) }
    else { s with busOut := some (.readOkay (readReg s (regAt off))) }) := by
  have hwf := readAt_wf h s
  rcases hostTurn_cases (Ref.readAt s off) s with ⟨hout, -⟩ | ⟨-, hbad, -⟩ | ⟨-, -, hdest, hturn⟩ | ⟨-, -, hdest, hturn⟩ |
    ⟨_, -, hwrite, -⟩ | ⟨_, -, hwrite, -⟩
  · exact absurd (inAperture_of_wf hwf) (by simp [hout])
  · exact absurd hwf (by simp [hbad])
  · rw [readAt_addr_sub_base] at hdest; rw [hturn, if_pos hdest]
  · rw [readAt_addr_sub_base] at hdest hturn; rw [hturn, hdest]; rfl
  · cases hwrite
  · cases hwrite

/-- While busy a write to a locked register is dropped with OVR and answered OKAY (R65). -/
theorem hostTurn_writeAt_dropped {s : State} {off : Nat} (d : BusWord) (h : Ref.offset off)
    (hlocked : locked (regAt off) = true) (hbusy : isBusy s = true) :
    hostTurn (Ref.writeAt s off d) s = .next { s with ovr := true, busOut := some .writeOkay } := by
  have hwf := writeAt_wf h s d
  rcases hostTurn_cases (Ref.writeAt s off d) s with ⟨hout, -⟩ | ⟨-, hbad, -⟩ | ⟨-, hread, -⟩ | ⟨-, hread, -⟩ |
    ⟨_, -, -, -, -, hturn⟩ | ⟨_, -, -, hopen, -⟩
  · exact absurd (inAperture_of_wf hwf) (by simp [hout])
  · exact absurd hwf (by simp [hbad])
  · cases hread
  · cases hread
  · exact hturn
  · rw [writeAt_addr_sub_base] at hopen; simp [hlocked, hbusy] at hopen

/-- A register that is not locked ignores writes, unless it is CTRL or STATUS (R62). -/
theorem writeReg_ignored (s : State) {r : Reg} (d : BusWord) (hopen : locked r = false) (hctrl : r ≠ .ctrl)
    (hstatus : r ≠ .status) : writeReg s r d = s := by
  rcases writeReg_cases s r d with ⟨hr, -⟩ | ⟨hr, -⟩ | ⟨hr, -⟩ | ⟨rfl, -⟩ | ⟨hlocked, -⟩ | ⟨-, -, -, hkeep⟩
  · exact absurd hr hctrl
  · exact absurd hr hctrl
  · exact absurd hr hstatus
  · cases hopen
  · rw [hopen] at hlocked; cases hlocked
  · exact hkeep

/-- A write to such a register's offset is answered OKAY and changes nothing, whether or not the block is busy (R62). -/
theorem hostTurn_writeAt_ignored {off : Nat} (h : Ref.offset off) (hopen : ¬ Ref.lockedOffset off) (hctrl : off ≠ 0x08)
    (hstatus : off ≠ 0x0C) (s : State) (d : BusWord) :
    hostTurn (Ref.writeAt s off d) s = .next { s with busOut := some .writeOkay } := by
  have hunlocked : locked (regAt off) = false := by rwa [← Bool.not_eq_true, locked_regAt_iff h]
  obtain ⟨-, -, hctrlIff, hstatusIff, -⟩ := regAt_control off
  rw [hostTurn_writeAt_performed d h (by simp [hunlocked]),
    writeReg_ignored s d hunlocked (hctrlIff.not.mpr hctrl) (hstatusIff.not.mpr hstatus)]

/-! ### Reserved offsets and the destinations of a command -/

/-- The words without a register are those at the reserved offsets (R61). -/
theorem regAt_eq_reserved_iff {off : Nat} (h : Ref.offset off) : regAt off = .reserved ↔ Ref.reservedOffset off := by
  obtain ⟨hlt, haligned⟩ := h
  unfold Ref.reservedOffset
  by_cases hctl : off < 0x40
  · have control : ∀ o < 0x40, o % 4 = 0 → (regAt o = .reserved ↔ 0x24 ≤ o) := by decide
    rw [control off hctl haligned]
    omega
  · rcases regAt_windows off (by omega) with ⟨_, e⟩ | ⟨_, _, e⟩ | ⟨_, _, e⟩ | ⟨_, _, e⟩ | ⟨_, _, e⟩ | ⟨_, _, e⟩ | ⟨_, _, e⟩ |
      ⟨_, _, e⟩ | ⟨_, _, e⟩ | ⟨_, _, e⟩ | ⟨_, e⟩ <;> simp only [e, reduceCtorEq, true_iff, false_iff] <;> omega

/-- The registers a command may write are those at the offsets of R76's "writes" column. -/
theorem mayWrite_iff_offset (i : Instr) {r : Reg} (hr : r ≠ .reserved) :
    mayWrite i r = true ↔ Ref.writesOffset i r.offset := by
  unfold mayWrite
  cases r with
  | reserved => exact absurd rfl hr
  | lane w l =>
    cases w <;> cases i <;>
      simp only [Ref.writesOffset, Reg.offset, Ref.firstOffset, true_iff, false_iff, Bool.false_eq_true] <;> omega
  | _ =>
    cases i <;>
      simp only [Ref.writesOffset, Reg.offset, true_iff, false_iff, Bool.false_eq_true, true_or, or_true] <;> omega

theorem writesOffset_not_reserved {i : Instr} {off : Nat} (h : Ref.writesOffset i off) : ¬ Ref.reservedOffset off := by
  unfold Ref.reservedOffset
  cases i <;> simp only [Ref.writesOffset] at h <;> omega

theorem mayWrite_reserved (i : Instr) : mayWrite i .reserved = false := by cases i <;> rfl

theorem mayWrite_cmd (i : Instr) : mayWrite i .cmd = false := by cases i <;> rfl

/-- The destinations of a command by offset: a reserved word is none, and any other register is at its own offset. -/
theorem mayWrite_regAt_iff {off : Nat} (h : Ref.offset off) (i : Instr) :
    mayWrite i (regAt off) = true ↔ Ref.writesOffset i off := by
  by_cases hres : regAt off = .reserved
  · rw [hres, mayWrite_reserved]
    exact iff_of_false Bool.false_ne_true fun hw => writesOffset_not_reserved hw ((regAt_eq_reserved_iff h).mp hres)
  · rw [mayWrite_iff_offset i hres, regAt_offset h hres]

/-- The pending command's destinations (R66). -/
theorem pendingDest_iff (s : State) (r : Reg) :
    pendingDest s r = true ↔ ∃ c i, s.eng = .busy c ∧ decode c = .ok i ∧ mayWrite i r = true := by
  unfold pendingDest
  cases heng : s.eng with
  | idle => simp
  | busy c => cases hdec : decode c <;> simp [hdec]

/-- A register that no command writes is never a pending destination. -/
theorem pendingDest_eq_false (s : State) {r : Reg} (h : ∀ i, mayWrite i r = false) : pendingDest s r = false := by
  rw [← Bool.not_eq_true, pendingDest_iff]
  rintro ⟨_, i, -, -, hwrites⟩
  rw [h i] at hwrites; cases hwrites

/-! ### The register map read forwards (R55, R58 to R60) -/

theorem regAt_firstOffset (r : WordReg) (l : Fin 4) : regAt (Ref.firstOffset r + 4 * l) = .lane r l := by
  revert l; cases r <;> decide

theorem regAt_key (k : Fin 64) : regAt (0x100 + 4 * k) = .key k := by
  revert k; decide

theorem regAt_lSlot (j : Fin 256) (l : Fin 4) : regAt (0x1000 + 16 * j + 4 * l) = .lSlot j l := by
  rcases regAt_windows (0x1000 + 16 * j + 4 * l) (by omega) with ⟨_, e⟩ | ⟨_, _, e⟩ | ⟨_, _, e⟩ | ⟨_, _, e⟩ | ⟨_, _, e⟩ |
    ⟨_, _, e⟩ | ⟨_, _, e⟩ | ⟨_, _, e⟩ | ⟨_, _, e⟩ | ⟨_, _, e⟩ | ⟨_, e⟩ <;> try omega
  rw [e]; congr 1 <;> apply Fin.ext <;> rw [Fin.val_ofNat] <;> omega

theorem regAt_sSlot (i : Fin 512) (l : Fin 4) : regAt (0x2000 + 16 * i + 4 * l) = .sSlot i l := by
  rcases regAt_windows (0x2000 + 16 * i + 4 * l) (by omega) with ⟨_, e⟩ | ⟨_, _, e⟩ | ⟨_, _, e⟩ | ⟨_, _, e⟩ | ⟨_, _, e⟩ |
    ⟨_, _, e⟩ | ⟨_, _, e⟩ | ⟨_, _, e⟩ | ⟨_, _, e⟩ | ⟨_, _, e⟩ | ⟨_, e⟩ <;> try omega
  rw [e]; congr 1 <;> apply Fin.ext <;> rw [Fin.val_ofNat] <;> omega

end Sys2Proof.Machine
end

section
/-! SUPPORT. The bytes of KEY registers, and the lanes and bytes of the 128-bit registers and slots (20_memory.md R56 to R58, R70). -/

namespace Sys2Proof.Machine

/-! ### Bytes of KEY registers -/

theorem byteOfBusWord_toNat (v : BusWord) (k : Nat) : (byteOfBusWord v k).toNat = v.toNat / 2 ^ (8 * k) % 256 := by
  rw [byteOfBusWord, BitVec.extractLsb'_toNat, Nat.shiftRight_eq_div_pow]

/-- Byte m of a KEY register is KEY[4k+m] (R58). -/
theorem byteOfBusWord_getKeyReg (s : State) (k : Fin 64) (m : Fin 4) :
    byteOfBusWord (getKeyReg s k) m = s.key.toList.getD (4 * k + m) 0 := by
  apply BitVec.eq_of_toNat_eq
  rw [byteOfBusWord_toNat, getKeyReg, busWordOfBytes, append_toNat, append_toNat, append_toNat]
  fin_cases m <;> simp only [Nat.add_zero] <;> omega

/-! ### Lanes and bytes of 128-bit values -/

theorem getLane_toNat (v : Slot) (l : Nat) : (getLane v l).toNat = v.toNat / 2 ^ (32 * l) % 2 ^ 32 := by
  rw [getLane, BitVec.extractLsb'_toNat, Nat.shiftRight_eq_div_pow]

/-- Byte n of lane l is byte 4l+n of the value. -/
theorem byteOfBusWord_getLane (v : Slot) (l n : Nat) (hn : n < 4) :
    byteOfBusWord (getLane v l) n = v.extractLsb' (8 * (4 * l + n)) 8 := by
  apply BitVec.eq_of_getLsbD_eq
  intro m hm
  rw [byteOfBusWord_getLsbD, getLane_getLsbD, BitVec.getLsbD_extractLsb', decide_eq_true (show 8 * n + m < 32 by omega),
    Bool.true_and, show 32 * l + (8 * n + m) = 8 * (4 * l + n) + m by omega]

/-- Byte k of `words_to_bytes` of a value's low word is the value's byte k (41_word_arithmetic.md R106). -/
theorem wordsToBytes_lowW_getD (w : Width) (v : Slot) {k : Nat} (hk : k < w.bytes) :
    (wordsToBytes [lowW w v]).getD k 0 = v.extractLsb' (8 * k) 8 := by
  have hlist : (wordsToBytes [lowW w v]).getD k 0 = (lowW w v).extractLsb' (8 * k) 8 := by
    simp [wordsToBytes, List.getD_eq_getElem?_getD, hk]
  have hbits := w.bits_eq
  rw [hlist]
  apply BitVec.eq_of_getLsbD_eq
  intro m hm
  rw [BitVec.getLsbD_extractLsb', BitVec.getLsbD_extractLsb', lowW, BitVec.getLsbD_setWidth,
    decide_eq_true (show 8 * k + m < w.bits by omega), Bool.true_and]

/-! ### Where a 128-bit value lies -/

theorem holds_place {s : State} {o : Nat} {v : Slot} (h : Ref.holds s o v) : o % 16 = 0 ∧ o + 16 ≤ 0x4000 := by
  rcases h with ⟨r, rfl, -⟩ | ⟨i, rfl, -⟩ | ⟨j, rfl, -⟩
  · cases r <;> decide
  · omega
  · omega

theorem holds_offset {s : State} {o : Nat} {v : Slot} (h : Ref.holds s o v) (l : Fin 4) : Ref.offset (o + 4 * l) := by
  obtain ⟨haligned, hin⟩ := holds_place h
  exact ⟨by omega, by omega⟩

/-- The register at first offset + 4l reads as lane l (R56). -/
theorem readReg_of_holds {s : State} {o : Nat} {v : Slot} (h : Ref.holds s o v) (l : Fin 4) :
    readReg s (regAt (o + 4 * l)) = getLane v l := by
  rcases h with ⟨r, rfl, rfl⟩ | ⟨i, rfl, rfl⟩ | ⟨j, rfl, rfl⟩
  · rw [regAt_firstOffset]; rfl
  · rw [regAt_sSlot]; rfl
  · rw [regAt_lSlot]; rfl

/-- A performed write to lane l of a writable register or slot leaves its value with that lane replaced (R56). -/
theorem holds_write {s : State} {o : Nat} {v : Slot} (h : Ref.holds s o v) (hlocked : Ref.lockedOffset o) (l : Fin 4)
    (d : BusWord) (out : Option Response) :
    Ref.holds { writeReg s (regAt (o + 4 * l)) d with busOut := out } o (setLane v l d) := by
  unfold Ref.lockedOffset at hlocked
  rcases h with ⟨r, rfl, rfl⟩ | ⟨i, rfl, rfl⟩ | ⟨j, rfl, rfl⟩
  · have hz : r ≠ .z := by rintro rfl; simp [Ref.firstOffset] at hlocked
    rw [regAt_firstOffset]
    refine .inl ⟨r, rfl, ?_⟩
    rw [← getWordReg_writeLane_same s l d hz]
    cases r <;> rfl
  · rw [regAt_sSlot]
    exact .inr (.inl ⟨i, rfl, (writeSlotS_getElem_same s i l d).symm⟩)
  · omega

/-- The byte k of a register or slot on the bus is the byte k of its value (R57). -/
theorem busByte_of_holds {s : State} {o : Nat} {v : Slot} (h : Ref.holds s o v) {k : Nat} (hk : k < 16) :
    busByte s (o + k) = v.extractLsb' (8 * k) 8 := by
  obtain ⟨haligned, -⟩ := holds_place h
  have hlane : readReg s (regAt (o + 4 * (k / 4))) = getLane v (k / 4) := readReg_of_holds h ⟨k / 4, by omega⟩
  rw [busByte, show (o + k) / 4 * 4 = o + 4 * (k / 4) by omega, show (o + k) % 4 = k % 4 by omega, hlane,
    byteOfBusWord_getLane v _ _ (Nat.mod_lt _ (by decide)), Nat.div_add_mod]

end Sys2Proof.Machine
end

section
/-! The obligations on the host interface (20_memory.md). -/

namespace Sys2Proof.Proofs

open Sys2Proof Sys2Proof.Machine

/-- Settles O42: an access that is no legal one is answered ERROR, and an ERROR response would make the host's turn fault, which
it does only for an access that is no legal one. -/
theorem illegalAccessGetsError : Obligations.IllegalAccessGetsError := by
  intro s a hin
  refine ⟨fun hbad => busAccess_of_not_wf hin ((wf_eq_false_iff hin).mpr hbad), fun hsize haligned d herror => ?_⟩
  obtain ⟨-, -, hillegal⟩ := (hostTurn_fault_iff a s .busError).mp (hostTurn_of_error herror)
  exact absurd ((wf_iff _ _).mpr ⟨hin, hsize, haligned⟩) (ne_true_of_eq_false hillegal)

/-- Settles O43: the engine's turn and a reset always answer a next state, so only the host's turn can stop the machine. -/
theorem onlyBusErrorsStopTheMachine : Obligations.OnlyBusErrorsStopTheMachine := by
  intro s
  refine ⟨fun r hrefused => ?_, fun f => ⟨fun hfault => ?_, ?_⟩⟩
  · rcases step_isNext_or_host s with ⟨t, hnext⟩ | ⟨a, rest, -, hturn⟩
    · rw [hnext] at hrefused; cases hrefused
    · exact hostTurn_ne_refused a _ r (hturn ▸ hrefused)
  · rcases step_isNext_or_host s with ⟨t, hnext⟩ | ⟨a, rest, hagenda, hturn⟩
    · rw [hnext] at hfault; cases hfault
    · obtain ⟨hf, hin, hwf⟩ := (hostTurn_fault_iff a _ f).mp (hturn ▸ hfault)
      exact ⟨hf, a, rest, hagenda, hin, (wf_eq_false_iff hin).mp hwf⟩
  · rintro ⟨hf, a, rest, hagenda, hin, hbad⟩
    rw [step_cons hagenda]
    exact (hostTurn_fault_iff a _ f).mpr ⟨hf, hin, (wf_eq_false_iff hin).mpr hbad⟩

/-- Settles O44: such an access is not in the aperture, so it does not reach the block. -/
theorem accessOutsideTheApertureHasNoEffect : Obligations.AccessOutsideTheApertureHasNoEffect := by
  intro s a hout
  have hnot : a.inAperture s.config = false := by
    rw [← Bool.not_eq_true, inAperture_iff]; omega
  simp only [hostTurn, busAccess, hnot, Bool.false_eq_true, if_false]

/-- Settles O45: the register map read forwards; an L lane is not locked and ignores writes. -/
theorem arrayWindowsOfTheMap : Obligations.ArrayWindowsOfTheMap := by
  refine ⟨regAt_sSlot, fun j l => ⟨regAt_lSlot j l, fun s d => ?_⟩, regAt_key⟩
  apply hostTurn_writeAt_ignored
  · exact ⟨by omega, by omega⟩
  · unfold Ref.lockedOffset; omega
  · omega
  · omega

/-- Settles O46: the bus shows byte m of KEY register k as byte 4k+m of KEY, and an idle write replaces the four bytes. -/
theorem keyRegisterHoldsFourBytes : Obligations.KeyRegisterHoldsFourBytes := by
  intro s k d
  refine ⟨fun m => ?_, fun m => byteOfBusWord_getKeyReg s k m, fun hidle => ?_⟩
  · rw [busByte, show (0x100 + (4 * k.val + m.val)) / 4 * 4 = 0x100 + 4 * k by omega,
      show (0x100 + (4 * k.val + m.val)) % 4 = m by omega, regAt_key]
    exact byteOfBusWord_getKeyReg s k m
  · have hturn : hostTurn (Ref.writeAt s (0x100 + 4 * k) d) s =
        .next { s with key := setKeyReg s.key k d, busOut := some .writeOkay } := by
      rw [hostTurn_writeAt_performed d ⟨by omega, by omega⟩ (by simp [isBusy_false hidle]), regAt_key, writeReg]
    refine ⟨_, hturn, rfl, fun n => ?_⟩
    simp [setKeyReg, byteOfBusWord]

/-- Settles O47: lane l is read by `getLane` and written by `setLane`. -/
theorem lanesAreIndependent : Obligations.LanesAreIndependent := by
  intro s o v l hholds
  refine ⟨by rw [readReg_of_holds hholds l, getLane_toNat], fun d hidle hlocked => ?_⟩
  refine ⟨_, setLane v l d, hostTurn_writeAt_performed d (holds_offset hholds l) (by simp [isBusy_false hidle]),
    holds_write hholds hlocked l d _, fun m => ?_⟩
  rw [← getLane_toNat, ← getLane_toNat]
  by_cases hm : m = l
  · rw [if_pos hm, hm, getLane_setLane_same]
  · rw [if_neg hm, getLane_setLane_other v d hm]

/-- Settles O49: none of these registers is locked, and none is CTRL or STATUS; no command writes CMD or a reserved word. -/
theorem reservedAndReadOnlyIgnoreWrites : Obligations.ReservedAndReadOnlyIgnoreWrites := by
  intro s off d hoff
  refine ⟨fun hign => ?_, fun hzero => ?_⟩
  · unfold Ref.reservedOffset Ref.readOnlyOffset at hign
    exact hostTurn_writeAt_ignored hoff (by unfold Ref.lockedOffset; omega) (by omega) (by omega) s d
  · obtain ⟨-, -, -, -, hcmdIff, -⟩ := regAt_control off
    have hreg : regAt off = .reserved ∨ regAt off = .cmd := hzero.imp (regAt_eq_reserved_iff hoff).mpr hcmdIff.mpr
    obtain ⟨hdest, hvalue⟩ : pendingDest s (regAt off) = false ∧ readReg s (regAt off) = 0 := by
      rcases hreg with h | h <;> rw [h]
      · exact ⟨pendingDest_eq_false s mayWrite_reserved, rfl⟩
      · exact ⟨pendingDest_eq_false s mayWrite_cmd, rfl⟩
    rw [hostTurn_readAt hoff, hdest, hvalue]; rfl

/-- Settles O50: both kinds of read keep every register. -/
theorem readsChangeNoState : Obligations.ReadsChangeNoState := by
  intro s off hoff
  refine ⟨_, hostTurn_readAt hoff s, ?_⟩
  split <;> rfl

/-- Settles O51: a locked write is dropped while busy; CTRL and STATUS are written at any time. -/
theorem busyWindowDropsLockedWrites : Obligations.BusyWindowDropsLockedWrites := by
  intro s off d hbusy hoff
  obtain ⟨-, hie, hsrst, -⟩ := ctrlHoldsTheInterruptEnable.2 s d
  refine ⟨fun hlocked => ?_, hie, hsrst, (statusBitsAndWriteOneToClear s d).2⟩
  exact hostTurn_writeAt_dropped d hoff ((locked_regAt_iff hoff).mpr hlocked) ((isBusy_iff s).mpr hbusy)

/-- Settles O52: the register at the offset is a pending destination exactly when a command is pending that writes the offset. -/
theorem busyWindowReadsOfDestinationsAreFree : Obligations.BusyWindowReadsOfDestinationsAreFree := by
  intro s off hoff
  rw [hostTurn_readAt hoff]
  refine ⟨fun c i heng hdec hwrites => ?_, fun hfree => ?_⟩
  · rw [if_pos ((pendingDest_iff _ _).mpr ⟨c, i, heng, hdec, (mayWrite_regAt_iff hoff i).mpr hwrites⟩)]
  · rw [if_neg]
    rw [pendingDest_iff]
    rintro ⟨c, i, heng, hdec, hwrites⟩
    rcases hfree with hidle | ⟨c', hbusy, hnone⟩
    · rw [heng] at hidle; cases hidle
    · rw [heng] at hbusy; cases hbusy
      exact hnone i hdec ((mayWrite_regAt_iff hoff i).mp hwrites)

/-- Settles O56: on the bus every byte of the value is at its own offset, and those of its low word are `words_to_bytes`. -/
theorem busViewIsWordsToBytes : Obligations.BusViewIsWordsToBytes := by
  intro w s o v k hholds
  refine ⟨fun hk => ?_, fun _ hk => busByte_of_holds hholds hk⟩
  rw [busByte_of_holds hholds (lt_of_lt_of_le hk w.bytes_le), wordsToBytes_lowW_getD w v hk]

end Sys2Proof.Proofs
end

section
/-! SUPPORT. The decoder read backwards (30_encoding.md R74 to R77): which words decode to which command, and which to none. -/

namespace Sys2Proof

open Sys2Proof.Machine

/-! ### The fields of a command word (R74) -/

theorem CommandWord.toWord_toNat (c : CommandWord) : c.toWord.toNat = c.rsv.toNat * 2 ^ 8 + c.op.toNat :=
  append_toNat c.rsv c.op

@[simp] theorem CommandWord.toWord_ofWord (v : BusWord) : (CommandWord.ofWord v).toWord = v := by
  unfold CommandWord.toWord CommandWord.ofWord
  rw [BitVec.extractLsb'_append_extractLsb'_eq_extractLsb', BitVec.extractLsb'_eq_self]; rfl

/-! ### The opcode map (R76) -/

/-- The opcode map and the encoder are inverse: an encoding is its opcode alone. -/
theorem opcodeCommand_eq_some_iff (n : Nat) (i : Instr) : opcodeCommand n = some i ↔ n = (encode i).toNat := by
  constructor
  · intro hmap
    unfold opcodeCommand at hmap
    split at hmap <;> cases hmap <;> rfl
  · rintro rfl
    cases i <;> rfl

/-- The largest opcode is 0x14 (R76). -/
theorem encode_toNat_lt (i : Instr) : (encode i).toNat < 0x15 := by cases i <;> decide

/-- The opcodes of no command (R77). -/
theorem opcodeCommand_eq_none_iff (n : Nat) :
    opcodeCommand n = none ↔ (0x07 ≤ n ∧ n ≤ 0x0F) ∨ 0x15 ≤ n := by
  by_cases hlarge : 0x15 ≤ n
  · refine iff_of_true (Option.eq_none_iff_forall_ne_some.mpr fun i hmap => ?_) (.inr hlarge)
    have hlt := encode_toNat_lt i
    rw [← (opcodeCommand_eq_some_iff n i).mp hmap] at hlt
    omega
  · have small : ∀ m < 0x15, opcodeCommand m = none ↔ 0x07 ≤ m ∧ m ≤ 0x0F := by decide
    rw [small n (by omega)]
    omega

/-! ### Decoding (R75) -/

theorem decode_eq_ok_iff (c : CommandWord) (i : Instr) :
    decode c = .ok i ↔ c.rsv = 0 ∧ opcodeCommand c.op.toNat = some i := by
  by_cases hrsv : c.rsv = 0
  · rw [decode, if_pos hrsv]
    cases opcodeCommand c.op.toNat <;> simp [hrsv]
  · rw [decode, if_neg hrsv]
    exact iff_of_false nofun fun h => hrsv h.1

/-- A command word decodes to the command whose encoding its 32 bits are: with RSV clear they are the opcode, and an encoding
has RSV clear. -/
theorem decode_eq_ok_iff_toWord (c : CommandWord) (i : Instr) : decode c = .ok i ↔ c.toWord = encode i := by
  have hop : c.op.toNat < 2 ^ 8 := c.op.isLt
  have henc := encode_toNat_lt i
  rw [decode_eq_ok_iff, opcodeCommand_eq_some_iff, ← BitVec.toNat_inj, ← BitVec.toNat_inj, CommandWord.toWord_toNat]
  simp only [BitVec.ofNat_eq_ofNat, BitVec.toNat_zero]
  omega

theorem decodeWord_eq_ok_iff (v : BusWord) (i : Instr) : decodeWord v = .ok i ↔ v = encode i := by
  rw [decodeWord, decode_eq_ok_iff_toWord, CommandWord.toWord_ofWord]

@[simp] theorem decodeWord_encode (i : Instr) : decodeWord (encode i) = .ok i := (decodeWord_eq_ok_iff _ i).mpr rfl

/-- The bytes of a word on the little-endian bus decode as the word (20_memory.md R57). -/
theorem decodeBytes_bytesOfBusWord (v : BusWord) :
    decodeBytes [byteOfBusWord v 0, byteOfBusWord v 1, byteOfBusWord v 2, byteOfBusWord v 3] = decodeWord v := by
  rw [decodeBytes, busWordOfBytes_byteOfBusWord]

/-- R77's illegal words are those that decode to no command. -/
theorem illegalWord_iff (c : CommandWord) : Ref.illegalWord c ↔ ∀ i, decode c ≠ .ok i := by
  have hnone : (∀ i, opcodeCommand c.op.toNat ≠ some i) ↔ opcodeCommand c.op.toNat = none :=
    Option.eq_none_iff_forall_ne_some.symm
  simp only [ne_eq, decode_eq_ok_iff, not_and]
  rw [forall_comm, hnone, opcodeCommand_eq_none_iff, Ref.illegalWord, or_iff_not_imp_left, not_not]

end Sys2Proof
end

section
/-! SUPPORT. The engine's turn on a latched word, by the word alone (30_encoding.md R75, 40_command_control.md R89). -/

namespace Sys2Proof.Machine

theorem failWith_eq_fails (e : CmdError) (s : State) : failWith e s = Ref.fails (errorCode e) s := rfl

/-- When the engine moves, the step is its turn, with the turn it stands for taken from the agenda. -/
theorem step_of_engineMoves {s : State} (h : Ref.engineMoves s) : step s = engineTurn { s with agenda := s.agenda.tail } := by
  rcases h with hnil | ⟨rest, hcons⟩
  · have hsame : { s with agenda := s.agenda.tail } = s := by rw [hnil, List.tail_nil, ← hnil]
    rw [step_nil hnil, hsame]
  · rw [step_cons hcons, hcons]; rfl

theorem engineTurn_of_decode {s : State} {c : CommandWord} {i : Instr} (heng : s.eng = .busy c) (hdec : decode c = .ok i) :
    engineTurn s = exec i s := by
  simp only [engineTurn, heng, hdec]

theorem engineTurn_of_illegalWord {s : State} {c : CommandWord} (heng : s.eng = .busy c) (hill : Ref.illegalWord c) :
    engineTurn s = .next (Ref.fails 6 s) := by
  rcases engineTurn_cases s with ⟨hidle, -⟩ | ⟨c', i, hbusy, hok, -⟩ | ⟨c', d, -, -, hturn⟩
  · rw [heng] at hidle; cases hidle
  · rw [heng] at hbusy; cases hbusy
    exact absurd hok ((illegalWord_iff c).mp hill i)
  · exact hturn

end Sys2Proof.Machine
end

section
/-! SUPPORT. What reads as before after a command: all registers but STATUS and its destinations (30_encoding.md R76). -/

namespace Sys2Proof.Machine

/-- A failed completion writes STATUS alone (60_exceptions.md R158). -/
theorem readReg_fails (code : BitVec 4) (s : State) {r : Reg} (h : r ≠ .status) :
    readReg (Ref.fails code s) r = readReg s r := by
  cases r with
  | status => exact absurd rfl h
  | lane w _ => cases w <;> rfl
  | _ => rfl

/-- The end of a completion writes STATUS alone, and keeps ERRCODE (40_command_control.md R89). -/
theorem readReg_finish (s : State) {r : Reg} (h : r ≠ .status) : readReg (finish s) r = readReg s r :=
  readReg_fails s.errcode s h

/-- The writes of a successful command change no register that is not one of its destinations. -/
theorem readReg_writesOnly {i : Instr} {s u : State} {r : Reg} (hw : writesOnly i s u) (hr : mayWrite i r = false) :
    readReg u r = readReg s r := by
  cases i <;> simp only [writesOnly] at hw
  case nop => rw [hw]
  case setkey =>
    rw [hw.1]
    cases r with
    | sSlot _ _ | lSlot _ _ | slen | llen => cases hr
    | lane w _ => cases w <;> rfl
    | _ => rfl
  case packkey =>
    rw [hw.1]
    cases r with
    | lSlot _ _ | llen => cases hr
    | lane w _ => cases w <;> rfl
    | _ => rfl
  case encrypt | decrypt =>
    rw [hw]
    cases r with
    | lane w _ =>
      cases w with
      | a | b => cases hr
      | _ => rfl
    | _ => rfl
  case magicp | magicq | add | sub | rotl | rotr | xor =>
    rw [hw]
    cases r with
    | lane w _ =>
      cases w with
      | z => cases hr
      | _ => rfl
    | _ => rfl

/-- A command changes no register but STATUS and its destinations. -/
theorem readReg_exec {i : Instr} {s t : State} {r : Reg} (h : exec i s = .next t) (hstatus : r ≠ .status)
    (hr : mayWrite i r = false) : readReg t r = readReg s r := by
  rcases exec_cases i s with ⟨e, hfail⟩ | ⟨u, hok, hw⟩
  · rw [hfail] at h; cases h
    rw [failWith_eq_fails, readReg_fails _ s hstatus]
  · rw [hok] at h; cases h
    rw [readReg_finish u hstatus, readReg_writesOnly hw hr]

end Sys2Proof.Machine
end

section
/-! The obligations on the encoding of the commands (30_encoding.md). -/

namespace Sys2Proof.Proofs

open Sys2Proof Sys2Proof.Machine

/-- Settles O2: a word decodes to the command whose encoding it is, and the bus gives its four bytes back as the word. -/
theorem decodeAcceptsExactlyTheEncodings : Obligations.DecodeAcceptsExactlyTheEncodings := by
  intro v i
  rw [decodeBytes_bytesOfBusWord]
  exact ⟨decodeWord_eq_ok_iff v i, decodeWord_eq_ok_iff v i⟩

/-- Settles O3: the step is the engine's turn, and a word is illegal exactly when it decodes to no command. -/
theorem completionSelectsExactlyOneCommand : Obligations.CompletionSelectsExactlyOneCommand := by
  intro s c heng hmoves
  rw [step_of_engineMoves hmoves]
  refine ⟨fun hill => engineTurn_of_illegalWord heng hill, fun hlegal => ?_⟩
  obtain ⟨i, hdec⟩ : ∃ i, decode c = .ok i := by
    simpa only [illegalWord_iff, ne_eq, not_forall, not_not] using hlegal
  refine ⟨i, fun i' => ?_, engineTurn_of_decode heng hdec⟩
  rw [eq_comm, ← decode_eq_ok_iff_toWord, hdec, Except.ok.injEq, eq_comm]

/-- Settles O40: an offset outside STATUS and the "writes" column names a register outside the command's destinations. -/
theorem commandsWriteOnlyTheirDestinations : Obligations.CommandsWriteOnlyTheirDestinations := by
  intro i s t off hexec hoff hstatus hwrites
  obtain ⟨-, -, -, hstatusIff, -⟩ := regAt_control off
  apply readReg_exec hexec (hstatusIff.not.mpr hstatus)
  rwa [← Bool.not_eq_true, mayWrite_regAt_iff hoff]

/-- Settles O1: the twelve words, bit by bit, are the encodings. -/
theorem opcodeWordsDecodeToTheirCommands : Obligations.OpcodeWordsDecodeToTheirCommands :=
  ⟨decodeWord_encode .nop, decodeWord_encode .setkey, decodeWord_encode .encrypt, decodeWord_encode .decrypt,
    decodeWord_encode .magicp, decodeWord_encode .magicq, decodeWord_encode .packkey, decodeWord_encode .add,
    decodeWord_encode .sub, decodeWord_encode .rotl, decodeWord_encode .rotr, decodeWord_encode .xor⟩

end Sys2Proof.Proofs
end

section
/-! SUPPORT. What the engine does with a host's access: the CMD write that is accepted (40_command_control.md R87, R88), and the
busy window, in which a host changes only what no command reads (R90, 20_memory.md R65). -/

namespace Sys2Proof.Machine

/-! ### Acceptance -/

/-- R88: a write to CMD is accepted by an idle block. -/
theorem hostTurn_writeCmd_idle {s : State} (hidle : s.eng = .idle) (v : BusWord) :
    hostTurn (Ref.writeAt s 0x10 v) s = .next
      { s with eng := .busy (CommandWord.ofWord v), done := false, errcode := 0, busOut := some .writeOkay } :=
  hostTurn_writeAt_performed (off := 0x10) v (by unfold Ref.offset; decide) (by simp [isBusy_false hidle])

/-- A performed write that moves an idle engine is one to CMD. -/
theorem writeReg_leaves_idle {s : State} {r : Reg} {d : BusWord} (hidle : s.eng = .idle)
    (hbusy : (writeReg s r d).eng ≠ .idle) : r = .cmd := by
  rcases writeReg_cases s r d with ⟨-, -, hw⟩ | ⟨-, -, hw⟩ | ⟨-, hw⟩ | ⟨hr, -⟩ | ⟨-, -, hw⟩ | ⟨-, -, -, hw⟩
  case inr.inr.inr.inl => exact hr
  all_goals rw [hw] at hbusy
  · exact absurd (resetBlock_eng s) hbusy
  all_goals exact absurd hidle hbusy

/-- A host access that moves an idle engine is a legal write to CMD, and the engine latches its word (R87). -/
theorem hostTurn_leaves_idle {s t : State} {a : Access} (hnext : hostTurn a s = .next t) (hidle : s.eng = .idle)
    (hbusy : t.eng ≠ .idle) : ∃ d, a.wf s.config = true ∧ a.addr = s.config.base + 0x10 ∧ a.kind = .write d ∧
      t.eng = .busy (CommandWord.ofWord d) := by
  rcases hostTurn_cases a s with ⟨-, hturn⟩ | ⟨-, -, hturn⟩ | ⟨-, -, -, hturn⟩ | ⟨-, -, -, hturn⟩ |
    ⟨_, -, -, -, -, hturn⟩ | ⟨d, hwf, hkind, -, hturn⟩ <;> rw [hturn] at hnext <;> cases hnext
  -- Outside the aperture, the two kinds of read, and a dropped write: the engine stays idle.
  iterate 4 exact absurd hidle hbusy
  have hcmd := writeReg_leaves_idle hidle hbusy
  obtain ⟨-, -, -, -, hcmdIff, -⟩ := regAt_control (a.addr - s.config.base)
  have hoff := hcmdIff.mp hcmd
  exact ⟨d, hwf, by omega, hkind, by rw [hcmd]; rfl⟩

/-! ### The busy window -/

/-- s with the fields a host may change while a command is pending as in h: IE, DONE, OVR and the model's own draws and busOut. -/
def State.adopt (s h : State) : State :=
  { s with ie := h.ie, done := h.done, ovr := h.ovr, draws := h.draws, busOut := h.busOut }

/-- A performed write to a register that is not locked is a soft reset, or changes only fields that `adopt` takes. -/
theorem writeReg_of_unlocked {s : State} {r : Reg} (d : BusWord) (hopen : locked r = false) :
    (r = .ctrl ∧ d.getLsbD 1 = true ∧ (writeReg s r d).eng = .idle) ∨ writeReg s r d = s.adopt (writeReg s r d) := by
  rcases writeReg_cases s r d with ⟨hr, hd, hw⟩ | ⟨-, -, hw⟩ | ⟨-, hw⟩ | ⟨rfl, -⟩ | ⟨hlocked, -⟩ | ⟨-, -, -, hw⟩
  · exact .inl ⟨hr, hd, by rw [hw, resetBlock_eng]⟩
  · exact .inr (by rw [hw]; rfl)
  · exact .inr (by rw [hw]; rfl)
  · cases hopen
  · rw [hopen] at hlocked; cases hlocked
  · exact .inr (by rw [hw]; rfl)

/-- A host access while a command is pending is a reset, or changes only fields that `adopt` takes (20_memory.md R65). -/
theorem hostTurn_busy {s t : State} {a : Access} (hnext : hostTurn a s = .next t) (hbusy : s.eng ≠ .idle) :
    (Turn.resets s.config (.host a) = true ∧ t.eng = .idle) ∨ t = s.adopt t := by
  rcases hostTurn_cases a s with ⟨-, hturn⟩ | ⟨-, -, hturn⟩ | ⟨-, -, -, hturn⟩ | ⟨-, -, -, hturn⟩ |
    ⟨_, -, -, -, -, hturn⟩ | ⟨d, hwf, hkind, hopen, hturn⟩ <;> rw [hturn] at hnext <;> cases hnext
  -- Outside the aperture, the two kinds of read, and a dropped write.
  iterate 4 exact .inr rfl
  rw [(isBusy_iff s).mpr hbusy, Bool.and_true] at hopen
  rcases writeReg_of_unlocked (s := s) d hopen with ⟨hctrl, hsrst, heng⟩ | hw
  · obtain ⟨-, -, hctrlIff, -⟩ := regAt_control (a.addr - s.config.base)
    exact .inl ⟨by simp [Turn.resets, hkind, hwf, hctrlIff.mp hctrl, hsrst], heng⟩
  · exact .inr (by rw [hw]; rfl)

/-- A quiet access while a command is pending answers a next state. -/
theorem hostTurn_quiet {s : State} {a : Access} (hbusy : s.eng ≠ .idle) (hquiet : Ref.quiet s.config a) :
    ∃ h, hostTurn a s = .next (s.adopt h) := by
  obtain ⟨hlegal, hkeep⟩ := hquiet
  cases hturn : hostTurn a s with
  | next t =>
    rcases hostTurn_busy hturn hbusy with ⟨hreset, -⟩ | ht
    · rw [hkeep] at hreset; cases hreset
    · exact ⟨t, congrArg _ ht⟩
  | fault f =>
    obtain ⟨-, hin, hwf⟩ := (hostTurn_fault_iff a s f).mp hturn
    simp [Turn.legal, hin, hwf] at hlegal
  | refused r => exact absurd hturn (hostTurn_ne_refused a s r)

/-- The machine's runs, one step at a time. -/
theorem run_core_succ {s t : State} (h : step s = .next t) (k : Nat) :
    Host.Core.run Sys2Proof.core (k + 1) s = Host.Core.run Sys2Proof.core k t := run_next Sys2Proof.core k s t h

/-- Quiet accesses while a command is pending take one step each and leave the state at acceptance but for adopted fields. -/
theorem run_quiet {s : State} (hbusy : s.eng ≠ .idle) (rest : List Turn) (k : Nat) (accesses : List Access)
    (hquiet : ∀ a ∈ accesses, Ref.quiet s.config a) :
    ∃ h, Host.Core.run Sys2Proof.core (accesses.length + k) { s with agenda := accesses.map .host ++ rest } =
      Host.Core.run Sys2Proof.core k (State.adopt { s with agenda := rest } h) := by
  induction accesses generalizing s with
  | nil => exact ⟨s, by rw [List.length_nil, Nat.zero_add]; rfl⟩
  | cons a accesses ih =>
    obtain ⟨ha, hrest⟩ := List.forall_mem_cons.mp hquiet
    obtain ⟨h, hturn⟩ := hostTurn_quiet (s := { s with agenda := accesses.map .host ++ rest }) hbusy ha
    obtain ⟨h', hrun⟩ := ih (s := s.adopt h) hbusy hrest
    have hstep : step { s with agenda := (a :: accesses).map .host ++ rest } =
        .next (State.adopt { s with agenda := accesses.map .host ++ rest } h) := hturn
    refine ⟨h', ?_⟩
    rw [List.length_cons, Nat.succ_add]
    exact (run_core_succ hstep _).trans hrun

/-! ### A command reads nothing that a host may change in the busy window -/

/-- The end of a command carries the adopted fields along, when its rule does; DONE is set in either case. -/
theorem complete_adopt {s t : State} {r : Except CmdError State} (h : State) (hnext : complete s r = .next t) :
    complete (s.adopt h) ((·.adopt h) <$> r) = .next (t.adopt (finish h)) := by
  cases r <;> cases hnext <;> rfl

/-- R90: a command's results are those of the state at acceptance. Each check and each written value of its rule reads the same
from the adopting state, so its rule there is the rule at s with the adopted fields carried along. -/
theorem exec_adopt {i : Instr} {s t : State} (h : State) (hnext : exec i s = .next t) :
    exec i (s.adopt h) = .next (t.adopt (finish h)) := by
  have hcomplete := fun r => complete_adopt (s := s) (t := t) (r := r) h
  cases i with
  | nop => exact hcomplete (.ok s) hnext
  | _ =>
    have hc := hcomplete _ hnext
    simp only [map_bind] at hc
    exact hc

theorem engineTurn_adopt {s t : State} (h : State) (hbusy : s.eng ≠ .idle) (hnext : engineTurn s = .next t) :
    engineTurn (s.adopt h) = .next (t.adopt (finish h)) := by
  rcases engineTurn_cases s with ⟨hidle, -⟩ | ⟨c, i, heng, hdec, hturn⟩ | ⟨c, e, heng, hdec, -⟩
  · exact absurd hidle hbusy
  · rw [engineTurn_of_decode (s := s.adopt h) heng hdec]
    exact exec_adopt h (hturn ▸ hnext)
  · have hill : Ref.illegalWord c := (illegalWord_iff c).mpr fun i hok => by rw [hdec] at hok; cases hok
    cases hnext.symm.trans (engineTurn_of_illegalWord heng hill)
    exact engineTurn_of_illegalWord (s := s.adopt h) heng hill

/-- The completion step leaves the engine idle and writes none of the registers that only hosts write. -/
theorem engineTurn_frame {s t : State} (hnext : engineTurn s = .next t) : t.eng = .idle ∧ t.x = s.x ∧ t.y = s.y ∧
    t.key = s.key ∧ t.wSel = s.wSel ∧ t.rounds = s.rounds ∧ t.keylen = s.keylen := by
  rcases engineTurn_next hnext with ⟨hidle, rfl⟩ | ⟨-, ⟨e, rfl⟩ | ⟨hs, -⟩⟩
  · exact ⟨hidle, rfl, rfl, rfl, rfl, rfl, rfl⟩
  · exact ⟨rfl, rfl, rfl, rfl, rfl, rfl, rfl⟩
  · rw [hs]; exact ⟨rfl, rfl, rfl, rfl, rfl, rfl, rfl⟩

/-- A step ends with the engine idle, by its turn or by a reset, or it is a host's access. -/
theorem step_eng_cases {s t : State} (hstep : step s = .next t) : (Ref.engineMoves s ∧ t.eng = .idle) ∨
    ((∃ u rest, s.agenda = u :: rest ∧ u.resets s.config = true) ∧ t.eng = .idle) ∨
    ∃ a rest, s.agenda = .host a :: rest ∧ hostTurn a { s with agenda := rest } = .next t := by
  cases hagenda : s.agenda with
  | nil =>
    rw [step_nil hagenda] at hstep
    exact .inl ⟨.inl hagenda, (engineTurn_frame hstep).1⟩
  | cons u rest =>
    rw [step_cons hagenda] at hstep
    cases u with
    | engine => exact .inl ⟨.inr ⟨rest, hagenda⟩, (engineTurn_frame hstep).1⟩
    | hardReset => cases hstep; exact .inr (.inl ⟨⟨_, rest, rfl, rfl⟩, rfl⟩)
    | host a => exact .inr (.inr ⟨a, rest, rfl, hstep⟩)

end Sys2Proof.Machine
end

section
/-! SUPPORT. Commands whose checks all succeed (60_exceptions.md R159): the state they leave, and that every word they write is
below 2^w (40_command_control.md R95). -/

namespace Sys2Proof.Machine

/-! ### The checks as the statements name them -/

/-- WIDTH() under the statements' premise (R91). -/
theorem readWidth_of_widthOk {s : State} (h : Ref.widthOk s) : ∃ w, readWidth s = .ok w ∧ w.bits = Ref.bits s := by
  obtain ⟨w, hw, -, hbits⟩ := readWidth_of_implemented h.1 h.2
  exact ⟨w, hw, hbits⟩

theorem bytes_eq_of_bits {s : State} {w : Width} (h : w.bits = Ref.bits s) : w.bytes = Ref.bytes s := by
  rw [Width.bytes, Ref.bytes, h]

/-- A command reports no error when every check it makes succeeds (R159). -/
theorem firstError_eq_zero {i : Instr} {s : State} (h : Ref.firstError i s = 0) :
    (Ref.usesWidth i → Ref.widthOk s) ∧ (Ref.usesRounds i → s.rounds.toNat ≤ 255) ∧
      (Ref.usesKeyLen i → s.keylen.toNat ≤ 255) ∧ (i = .packkey → s.keylen.toNat % Ref.bytes s = 0) ∧
      (Ref.isCipher i → Ref.cipherOk s) := by
  unfold Ref.firstError at h
  split_ifs at h with hwidth hrounds hkeylen hpack hslen hwide
  iterate 6 exact absurd h (by decide)
  rw [not_and, not_not] at hwidth
  rw [not_and, Nat.not_lt] at hrounds hkeylen
  rw [not_and, not_not] at hpack hslen
  rw [not_and] at hwide
  refine ⟨hwidth, hrounds, hkeylen, hpack, fun hi => ?_⟩
  have hslots := hwide hi
  simp only [Ref.blockTooWide, not_or, not_exists, not_and, Nat.not_le] at hslots
  exact ⟨hrounds (.inr hi), hslen hi, hslots⟩

/-- Every S slot the cipher reads fits the width (R141). -/
theorem take_sArr_fitsW {s : State} {w : Width} {n : Nat} (h : ∀ i < n, Ref.keySlot s i < 2 ^ w.bits) :
    (s.sArr.toList.take n).all (fitsW w) = true := by
  rw [List.all_eq_true]
  intro v hv
  obtain ⟨i, hi, rfl⟩ := List.mem_iff_getElem.mp hv
  rw [List.length_take, lt_min_iff] at hi
  have hslot := h i hi.1
  rw [Ref.keySlot, List.getD_eq_getElem _ _ hi.2] at hslot
  rw [List.getElem_take]
  exact (fitsW_iff w _).mpr hslot

/-- `CIPHER_INPUTS()` under the statements' premise (R141). -/
theorem cipherInputs_of_cipherOk {s : State} {w : Width} (hw : readWidth s = .ok w) (hbits : w.bits = Ref.bits s)
    (h : Ref.cipherOk s) : cipherInputs s = .ok (w, s.rounds.toNat) := by
  obtain ⟨hrounds, hslen, ha, hb, hslots⟩ := h
  rw [← hbits] at ha hb hslots
  rw [cipherInputs, hw, readRounds_of_le hrounds]
  simp [bind, Except.bind, hslen, (fitsW_iff w _).mpr ha, (fitsW_iff w _).mpr hb, take_sArr_fitsW hslots]

/-! ### The states they leave -/

/-- The commands that write Z (30_encoding.md R76). -/
theorem exec_writes_z {i : Instr} {s : State} {w : Width} (hw : readWidth s = .ok w)
    (hi : i ∈ [Instr.add, .sub, .rotl, .rotr, .xor, .magicp, .magicq]) :
    ∃ v : Word w, exec i s = .next (finish { s with z := zextSlot v }) := by
  cases i with
  | add => exact ⟨_, by rw [exec, execAdd, hw]; rfl⟩
  | sub => exact ⟨_, by rw [exec, execSub, hw]; rfl⟩
  | rotl => exact ⟨_, by rw [exec, execRotl, hw]; rfl⟩
  | rotr => exact ⟨_, by rw [exec, execRotr, hw]; rfl⟩
  | xor => exact ⟨_, by rw [exec, execXor, hw]; rfl⟩
  | magicp => exact ⟨_, by rw [exec, execMagicp, hw]; rfl⟩
  | magicq => exact ⟨_, by rw [exec, execMagicq, hw]; rfl⟩
  | nop | setkey | encrypt | decrypt | packkey => simp at hi

/-- The cipher commands write A and B (R139, R140). -/
theorem exec_writes_ab {i : Instr} {s : State} {w : Width} {r : Nat} (hin : cipherInputs s = .ok (w, r))
    (hi : Ref.isCipher i) :
    ∃ a b : Word w, exec i s = .next (finish { s with a := zextSlot a, b := zextSlot b }) := by
  rcases hi with rfl | rfl
  · exact ⟨_, _, by rw [exec, execEncrypt, hin]; rfl⟩
  · exact ⟨_, _, by rw [exec, execDecrypt, hin]; rfl⟩

/-- SETKEY packs the key and commits the mixed words (R120). -/
theorem execSetkey_of_checks {s : State} {w : Width} (hw : readWidth s = .ok w) (hrounds : s.rounds.toNat ≤ 255)
    (hkeylen : s.keylen.toNat ≤ 255) :
    ∃ l, keyWords w (keyBytes s s.keylen.toNat) = .ok l ∧ execSetkey s =
      .next (finish (commitKey (mix (initS (2 * s.rounds.toNat + 2) (magicP w) (magicQ w)) l) s.rounds.toNat s)) := by
  obtain ⟨l, hl⟩ := keyWords_isOk w (keyBytes s s.keylen.toNat)
  refine ⟨l, hl, ?_⟩
  rw [execSetkey, hw, readRounds_of_le hrounds, readKeyLen_of_le hkeylen]
  show complete s (do let l ← keyWords w (keyBytes s s.keylen.toNat); _) = _
  rw [hl]; rfl

/-- PACKKEY packs a key of whole words into as many L slots (41_word_arithmetic.md R113). -/
theorem execPackkey_of_checks {s : State} {w : Width} (hw : readWidth s = .ok w) (hkeylen : s.keylen.toNat ≤ 255)
    (hwhole : s.keylen.toNat % w.bytes = 0) :
    ∃ words, bytesToWords w (keyBytes s s.keylen.toNat) = .ok words ∧ words.length = s.keylen.toNat / w.bytes ∧
      execPackkey s = .next (finish { s with
        lArr := overlay words s.lArr, llen := BitVec.ofNat 9 (s.keylen.toNat / w.bytes) }) := by
  have hlen : (keyBytes s s.keylen.toNat).length = s.keylen.toNat := keyBytes_length (by omega)
  obtain ⟨words, hwords⟩ : ∃ words, bytesToWords w (keyBytes s s.keylen.toNat) = .ok words :=
    ⟨_, by rw [bytesToWords, hlen, if_pos hwhole]⟩
  obtain ⟨-, hcount⟩ := bytesToWords_length hwords
  refine ⟨words, hwords, by rw [hcount, hlen], ?_⟩
  rw [execPackkey, hw, readKeyLen_of_le hkeylen]
  show complete s (do let words ← bytesToWords w (keyBytes s s.keylen.toNat); _) = _
  rw [hwords]; rfl

/-! ### Zero extension (40_command_control.md R95) -/

theorem zextSlot_toNat_lt {w : Width} (v : Word w) : (zextSlot v).toNat < 2 ^ w.bits := by
  rw [zextSlot_toNat]; exact v.isLt

/-- The slots that are written hold w-bit words. -/
theorem overlay_toNat_lt {w : Width} {n : Nat} (words : List (Word w)) (arr : Vector Slot n) {k : Fin n}
    (hk : k.val < words.length) : (overlay words arr)[k].toNat < 2 ^ w.bits := by
  rw [Fin.getElem_fin, overlay_getElem words arr k.val k.isLt, dif_pos hk]
  exact zextSlot_toNat_lt _

/-- So do the slots below a length register that was written with the number of words. -/
theorem overlay_toNat_lt_of_count {w : Width} {n m c : Nat} {words : List (Word w)} (hc : words.length = c)
    (arr : Vector Slot n) {k : Fin n} (hk : k.val < (BitVec.ofNat m c).toNat) :
    (overlay words arr)[k].toNat < 2 ^ w.bits := by
  refine overlay_toNat_lt words arr (lt_of_lt_of_le hk ?_)
  rw [BitVec.toNat_ofNat, hc]
  exact Nat.mod_le _ _

/-- The S and L words of a SETKEY whose checks succeed. -/
theorem execSetkey_toNat_lt {s t : State} {w : Width} (hw : readWidth s = .ok w) (hrounds : s.rounds.toNat ≤ 255)
    (hkeylen : s.keylen.toNat ≤ 255) (hexec : execSetkey s = .next t) :
    (∀ k : Fin 512, k.val < t.slen.toNat → t.sArr[k].toNat < 2 ^ w.bits) ∧
      ∀ k : Fin 256, k.val < t.llen.toNat → t.lArr[k].toNat < 2 ^ w.bits := by
  obtain ⟨l, -, hnext⟩ := execSetkey_of_checks hw hrounds hkeylen
  cases hexec.symm.trans hnext
  exact ⟨fun k hk => overlay_toNat_lt_of_count (by rw [mix_s_length, initS_length]) s.sArr hk,
    fun k hk => overlay_toNat_lt_of_count rfl s.lArr hk⟩

/-- The L words of a PACKKEY whose checks succeed. -/
theorem execPackkey_toNat_lt {s t : State} {w : Width} (hw : readWidth s = .ok w) (hkeylen : s.keylen.toNat ≤ 255)
    (hwhole : s.keylen.toNat % w.bytes = 0) (hexec : execPackkey s = .next t) :
    ∀ k : Fin 256, k.val < t.llen.toNat → t.lArr[k].toNat < 2 ^ w.bits := by
  obtain ⟨words, -, hcount, hnext⟩ := execPackkey_of_checks hw hkeylen hwhole
  cases hexec.symm.trans hnext
  exact fun k hk => overlay_toNat_lt_of_count hcount s.lArr hk

end Sys2Proof.Machine
end

section
/-! The obligations on the command life cycle and the control commands (40_command_control.md). -/

namespace Sys2Proof.Proofs

open Sys2Proof Sys2Proof.Machine

/-- Settles O5: CMD is a locked register, so its write is performed by an idle block and dropped by a busy one. -/
theorem cmdWriteAcceptsOrOverruns : Obligations.CmdWriteAcceptsOrOverruns := by
  intro s v
  refine ⟨fun hidle => hostTurn_writeCmd_idle hidle v, fun hbusy => ?_⟩
  exact hostTurn_writeAt_dropped (off := 0x10) v (by unfold Ref.offset; decide) rfl ((isBusy_iff s).mpr hbusy)

/-- Settles O6: of the turns that are neither the engine's nor a reset, a host's access to a busy block keeps the pending word,
and to an idle one it moves the engine only by the CMD write. -/
theorem engineMovesOnlyByCmdWriteCompletionOrReset : Obligations.EngineMovesOnlyByCmdWriteCompletionOrReset := by
  refine ⟨rfl, fun s t hstep => ?_⟩
  rcases step_eng_cases hstep with ⟨hmoves, heng⟩ | ⟨hreset, heng⟩ | ⟨a, rest, hagenda, hturn⟩
  · exact ⟨fun _ hbusy => absurd heng hbusy, fun _ _ => .inl hmoves, fun _ hbusy => absurd heng hbusy⟩
  · exact ⟨fun _ hbusy => absurd heng hbusy, fun _ _ => .inr hreset, fun _ hbusy => absurd heng hbusy⟩
  · refine ⟨fun hidle hbusy => ?_, fun hbusy hidle => ?_, fun hbusy hbusy' => ?_⟩
    · obtain ⟨d, hwf, haddr, hkind, heng⟩ := hostTurn_leaves_idle hturn hidle hbusy
      exact ⟨a, d, rest, hagenda, hwf, haddr, hkind, heng⟩
    · rcases hostTurn_busy hturn hbusy with ⟨hreset, -⟩ | ht
      · exact .inr ⟨.host a, rest, hagenda, hreset⟩
      · rw [ht] at hidle; exact absurd hidle hbusy
    · rcases hostTurn_busy hturn hbusy with ⟨-, heng⟩ | ht
      · exact absurd heng hbusy'
      · rw [ht]; rfl

/-- Settles O9: the accesses change only what no command reads, and the completion step answers with those fields carried along. -/
theorem commandIsAFunctionOfTheAcceptedState : Obligations.CommandIsAFunctionOfTheAcceptedState := by
  intro s accesses hbusy hquiet
  obtain ⟨t, hturn⟩ := engineTurn_isNext { s with agenda := [] }
  obtain ⟨h, hrun⟩ := run_quiet hbusy [.engine] 1 accesses hquiet
  have hstep : step { s with agenda := [.engine] } = .next t := hturn
  have hstep' : step (State.adopt { s with agenda := [.engine] } h) = .next (t.adopt (finish h)) :=
    engineTurn_adopt (s := { s with agenda := [] }) h hbusy hturn
  obtain ⟨heng, hx, hy, hkey, hwSel, hrounds, hkeylen⟩ := engineTurn_frame hturn
  refine ⟨t, t.adopt (finish h), run_core_succ hstep 0, hrun.trans (run_core_succ hstep' 0), ?_⟩
  exact ⟨heng, rfl, rfl, rfl, rfl, rfl, rfl, rfl, rfl, rfl, hx, hy, hkey, hwSel, hrounds, hkeylen⟩

/-- Settles O39: with no error to report every check succeeds, and each command then writes zero-extended w-bit words. -/
theorem resultsAreZeroExtended : Obligations.ResultsAreZeroExtended := by
  intro i s t hok hexec
  obtain ⟨hwidth, hrounds, hkeylen, hwhole, hcipher⟩ := firstError_eq_zero hok
  by_cases hnop : i = .nop
  · subst hnop; simp [Ref.isCipher, Ref.usesKeyLen]
  obtain ⟨w, hw, hbits⟩ := readWidth_of_widthOk (hwidth hnop)
  rw [← hbits]
  refine ⟨fun hi => ?_, fun hi => ?_, fun hi => ?_, fun hi => ?_⟩
  · obtain ⟨v, hnext⟩ := exec_writes_z hw hi
    cases hexec.symm.trans hnext
    exact zextSlot_toNat_lt v
  · obtain ⟨a, b, hnext⟩ := exec_writes_ab (cipherInputs_of_cipherOk hw hbits (hcipher hi)) hi
    cases hexec.symm.trans hnext
    exact ⟨zextSlot_toNat_lt a, zextSlot_toNat_lt b⟩
  · subst hi
    exact (execSetkey_toNat_lt hw (hrounds (.inl rfl)) (hkeylen (.inl rfl)) hexec).1
  · rcases hi with rfl | rfl
    · exact (execSetkey_toNat_lt hw (hrounds (.inl rfl)) (hkeylen (.inl rfl)) hexec).2
    · exact execPackkey_toNat_lt hw (hkeylen (.inr rfl)) (bytes_eq_of_bits hbits ▸ hwhole rfl) hexec

/-- Settles O4: both turns are the engine's, and its turn is the completion of the decoded command. -/
theorem stepRunsTheDecodedCommand : Obligations.StepRunsTheDecodedCommand := by
  intro s c i heng hdec
  refine ⟨fun rest hagenda => ?_, fun hagenda => ?_⟩
  · rw [step_cons hagenda]; exact engineTurn_of_decode heng hdec
  · rw [step_nil hagenda]; exact engineTurn_of_decode heng hdec

/-- Settles O7: NOP's word is accepted by an idle block, and its completion only ends the command. -/
theorem nopWritesOnlyStatus : Obligations.NopWritesOnlyStatus := by
  refine ⟨rfl, fun _ => rfl, fun s hidle => ⟨_, hostTurn_writeCmd_idle hidle 0, ?_⟩⟩
  rw [engineTurn_of_decode rfl (decodeWord_encode .nop), hidle]; rfl

/-- Settles O8: a word that decodes to no command completes with IllegalCommand, before any check. -/
theorem illegalCommandReportsCodeSix : Obligations.IllegalCommandReportsCodeSix := fun _ _ heng hill =>
  engineTurn_of_illegalWord heng hill

end Sys2Proof.Proofs
end

section
/-! SUPPORT. The word primitives as numbers: `add_w` and `sub_w` modulo 2^w, `xor_w` of low words, and the rotations as the sum of
their two terms (41_word_arithmetic.md R99 to R103). -/

namespace Sys2Proof.Machine

/-! ### add, sub and xor -/

theorem subW_toNat {w : Width} (x y : Word w) : (subW x y).toNat = Ref.sub w.bits x.toNat y.toNat := by
  have hy : y.toNat ≤ 2 ^ w.bits := Nat.le_of_lt y.isLt
  have hcast : ((subW x y).toNat : Int) = ((x.toNat : Int) - y.toNat) % 2 ^ w.bits := by
    rw [subW, BitVec.toNat_sub]
    push_cast [Nat.cast_sub hy]
    rw [show (2 ^ w.bits - y.toNat + x.toNat : Int) = x.toNat - y.toNat + 2 ^ w.bits by ring, Int.add_emod_right]
  rw [Ref.sub, ← hcast, Int.toNat_natCast]

/-- Reduction mod 2^w commutes with subtraction (R100). -/
theorem sub_mod_operands (w x y : Nat) : Ref.sub w (x % 2 ^ w) (y % 2 ^ w) = Ref.sub w x y := by
  rw [Ref.sub, Ref.sub, Int.sub_emod x]
  push_cast
  rfl

theorem xorW_toNat {w : Width} (x y : Word w) : (xorW x y).toNat = Ref.xor w.bits x.toNat y.toNat := by
  rw [xorW, BitVec.toNat_xor, Ref.xor, Nat.mod_eq_of_lt x.isLt, Nat.mod_eq_of_lt y.isLt]

/-- `xor_w` of the statements reads the low w bits alone (R103). -/
theorem xor_mod_operands (w x y : Nat) : Ref.xor w (x % 2 ^ w) (y % 2 ^ w) = Ref.xor w x y := by
  rw [Ref.xor, Ref.xor, Nat.mod_mod, Nat.mod_mod]

/-! ### The two terms of a rotation -/

/-- The upper term of a left rotation is a multiple of 2^n (R101). -/
theorem mul_two_pow_mod (v : Nat) {w n : Nat} (h : n ≤ w) : v * 2 ^ n % 2 ^ w = 2 ^ n * (v % 2 ^ (w - n)) := by
  rw [Nat.mul_comm, ← Nat.mul_mod_mul_left, ← Nat.pow_add, Nat.add_sub_cancel' h]

/-- The lower term of a left rotation is below 2^n (R101). -/
theorem div_two_pow_lt {v w n : Nat} (hv : v < 2 ^ w) (h : n ≤ w) : v / 2 ^ (w - n) < 2 ^ n := by
  rw [Nat.div_lt_iff_lt_mul (Nat.two_pow_pos _), ← Nat.pow_add, Nat.add_sub_cancel' h]
  exact hv

/-- "The two terms have no bits in common" (R101). -/
theorem rotation_terms_and {v w n : Nat} (hv : v < 2 ^ w) (h : n ≤ w) :
    (v * 2 ^ n % 2 ^ w) &&& (v / 2 ^ (w - n)) = 0 := by
  apply Nat.eq_of_testBit_eq
  intro i
  rw [mul_two_pow_mod v h, Nat.testBit_and, Nat.testBit_two_pow_mul, Nat.zero_testBit]
  by_cases hi : n ≤ i
  · rw [Nat.testBit_lt_two_pow (lt_of_lt_of_le (div_two_pow_lt hv h) (Nat.pow_le_pow_right (by decide) hi)), Bool.and_false]
  · simp [hi]

/-- "so `+` here equals bitwise OR" (R101), for a word of w bits. -/
theorem shiftLeft_or_shiftRight_toNat {w n : Nat} (x : BitVec w) (h : n ≤ w) :
    (x <<< n ||| x >>> (w - n)).toNat = x.toNat * 2 ^ n % 2 ^ w + x.toNat / 2 ^ (w - n) := by
  rw [BitVec.toNat_or, BitVec.toNat_shiftLeft, BitVec.toNat_ushiftRight, Nat.shiftLeft_eq, Nat.shiftRight_eq_div_pow,
    mul_two_pow_mod _ h, ← Nat.two_pow_add_eq_or_of_lt (div_two_pow_lt x.isLt h)]

/-- `rotl_w` is R101's formula. -/
theorem rotlW_toNat {w : Width} (x : Word w) (n : Nat) : (rotlW x n).toNat = Ref.rotl w.bits x.toNat n := by
  have hn : n % w.bits < w.bits := Nat.mod_lt _ w.bits_pos
  rw [rotlW, shiftLeft_or_shiftRight_toNat x hn.le, Ref.rotl, Nat.mod_eq_of_lt x.isLt]
  split
  · next h0 => simp [h0, x.isLt]
  · rfl

/-- `rotr_w` is R102's formula: the terms of a left rotation by `w - n`. -/
theorem rotrW_toNat {w : Width} (x : Word w) (n : Nat) : (rotrW x n).toNat = Ref.rotr w.bits x.toNat n := by
  have hn : n % w.bits < w.bits := Nat.mod_lt _ w.bits_pos
  have hterms := shiftLeft_or_shiftRight_toNat x (Nat.sub_le w.bits (n % w.bits))
  rw [Nat.sub_sub_self hn.le] at hterms
  rw [rotrW, BitVec.or_comm, hterms, Ref.rotr, Nat.mod_eq_of_lt x.isLt]
  split
  · next h0 => simp [h0]
  · exact Nat.add_comm ..

/-- A left rotation reads the low w bits alone (R101). -/
theorem rotl_mod_operand (w x n : Nat) : Ref.rotl w (x % 2 ^ w) n = Ref.rotl w x n := by
  rw [Ref.rotl, Ref.rotl, Nat.mod_mod]

/-- A right rotation reads the low w bits alone (R102). -/
theorem rotr_mod_operand (w x n : Nat) : Ref.rotr w (x % 2 ^ w) n = Ref.rotr w x n := by
  rw [Ref.rotr, Ref.rotr, Nat.mod_mod]

/-! ### The rotations as an action -/

/-- A left rotation is a right one by `w - n mod w`, bit by bit (R107). -/
theorem rotlW_eq_rotrW {w : Width} (x : Word w) (n : Nat) : rotlW x n = rotrW x (w.bits - n % w.bits) := by
  apply BitVec.eq_of_getLsbD_eq
  intro k _
  rw [rotlW_getLsbD, rotrW_getLsbD]

/-- Only the amount modulo w matters (R102). -/
theorem rotrW_congr {w : Width} (x : Word w) {n m : Nat} (h : n ≡ m [MOD w.bits]) : rotrW x n = rotrW x m := by
  rw [rotrW, rotrW, h]

theorem rotrW_zero {w : Width} (x : Word w) : rotrW x 0 = x := by
  apply BitVec.eq_of_getLsbD_eq
  intro k hk
  rw [rotrW_getLsbD, decide_eq_true hk, Bool.true_and, Nat.add_zero, Nat.mod_eq_of_lt hk]

theorem rotrW_rotrW {w : Width} (x : Word w) (n m : Nat) : rotrW (rotrW x n) m = rotrW x (n + m) := by
  apply BitVec.eq_of_getLsbD_eq
  intro k hk
  rw [rotrW_getLsbD, rotrW_getLsbD, rotrW_getLsbD, decide_eq_true (Nat.mod_lt _ w.bits_pos), Bool.true_and, Nat.mod_add_mod,
    Nat.add_assoc, Nat.add_comm m]

/-- `w - n mod w` is the amount that undoes n. -/
theorem sub_mod_add_modEq_zero (w : Width) (n : Nat) : w.bits - n % w.bits + n ≡ 0 [MOD w.bits] := by
  have hn : n % w.bits ≤ w.bits := (Nat.mod_lt _ w.bits_pos).le
  calc w.bits - n % w.bits + n ≡ w.bits - n % w.bits + n % w.bits [MOD w.bits] := (Nat.mod_modEq n _).symm.add_left _
    _ = w.bits := Nat.sub_add_cancel hn
    _ ≡ 0 [MOD w.bits] := Nat.mod_self _

theorem rotlW_mod {w : Width} (x : Word w) (n : Nat) : rotlW x (n % w.bits) = rotlW x n := by
  rw [rotlW, rotlW, Nat.mod_mod]

theorem rotrW_rotlW {w : Width} (x : Word w) (n : Nat) : rotrW (rotlW x n) n = x := by
  rw [rotlW_eq_rotrW, rotrW_rotrW, rotrW_congr x (sub_mod_add_modEq_zero w n), rotrW_zero]

theorem rotlW_zero {w : Width} (x : Word w) : rotlW x 0 = x := (rotrW_zero _).symm.trans (rotrW_rotlW x 0)

theorem rotlW_rotrW {w : Width} (x : Word w) (n : Nat) : rotlW (rotrW x n) n = x := by
  rw [rotlW_eq_rotrW, rotrW_rotrW, Nat.add_comm, rotrW_congr x (sub_mod_add_modEq_zero w n), rotrW_zero]

/-- Left rotations add up (R107): undoing `n + m` at once undoes n and m. -/
theorem rotlW_rotlW {w : Width} (x : Word w) (n m : Nat) : rotlW (rotlW x n) m = rotlW x (n + m) := by
  rw [← rotlW_rotrW (rotlW (rotlW x n) m) (n + m), Nat.add_comm n m, ← rotrW_rotrW, rotrW_rotlW, rotrW_rotlW]

end Sys2Proof.Machine
end

section
/-! SUPPORT. Packing and unpacking word by word (41_word_arithmetic.md R104 to R106). -/

namespace Sys2Proof

theorem Width.two_pow_bits (w : Width) : 2 ^ w.bits = 256 ^ w.bytes := by
  rw [w.bits_eq, Nat.pow_mul]

end Sys2Proof

namespace Sys2Proof.Machine

/-! ### The little-endian sum -/

/-- `leNat` is the sum that its rule writes (R104). -/
theorem leNat_eq_sum (cs : List Byte) :
    leNat cs = ∑ k ∈ Finset.range cs.length, (cs.getD k 0).toNat * 2 ^ (8 * k) := by
  induction cs with
  | nil => rfl
  | cons c cs ih =>
    rw [leNat, ih, List.length_cons, Finset.sum_range_succ', Finset.mul_sum, Nat.add_comm]
    congr 1
    · refine Finset.sum_congr rfl fun k _ => ?_
      rw [List.getD_cons_succ, Nat.mul_succ, Nat.pow_add]
      ring
    · simp

/-- The sum determines the bytes. -/
theorem leNat_inj {cs ds : List Byte} (hlen : cs.length = ds.length) (h : leNat cs = leNat ds) : cs = ds := by
  induction cs generalizing ds with
  | nil => exact (List.length_eq_zero_iff.mp hlen.symm).symm
  | cons c cs ih =>
    cases ds with
    | nil => cases hlen
    | cons d ds =>
      have hc : c.toNat < 256 := c.isLt
      have hd : d.toNat < 256 := d.isLt
      simp only [leNat] at h
      rw [BitVec.eq_of_toNat_eq (show c.toNat = d.toNat by omega), ih (Nat.succ.inj hlen) (by omega)]

/-- As many bytes as a word has pack without loss. -/
theorem ofNat_leNat_toNat {w : Width} {cs : List Byte} (h : cs.length = w.bytes) :
    (BitVec.ofNat w.bits (leNat cs)).toNat = leNat cs := by
  rw [BitVec.toNat_ofNat, Nat.mod_eq_of_lt]
  rw [w.two_pow_bits, ← h]
  exact leNat_lt cs

/-! ### The bytes of one word -/

/-- The bytes of one word, the lowest first (R106). -/
def wordBytes {w : Width} (v : Word w) : List Byte := (List.range w.bytes).map fun k => v.extractLsb' (8 * k) 8

@[simp] theorem wordBytes_length {w : Width} (v : Word w) : (wordBytes v).length = w.bytes := by simp [wordBytes]

theorem wordBytes_getD_toNat {w : Width} (v : Word w) {k : Nat} (hk : k < w.bytes) :
    ((wordBytes v).getD k 0).toNat = v.toNat / 2 ^ (8 * k) % 256 := by
  simp [wordBytes, List.getD_eq_getElem?_getD, hk, Nat.shiftRight_eq_div_pow]

@[simp] theorem wordsToBytes_nil {w : Width} : wordsToBytes ([] : List (Word w)) = [] := rfl

@[simp] theorem wordsToBytes_cons {w : Width} (v : Word w) (ws : List (Word w)) :
    wordsToBytes (v :: ws) = wordBytes v ++ wordsToBytes ws := rfl

/-- The lowest n bytes of a number sum to it modulo 256^n. -/
theorem sum_bytes_eq_mod (v n : Nat) : ∑ k ∈ Finset.range n, v / 2 ^ (8 * k) % 256 * 2 ^ (8 * k) = v % 2 ^ (8 * n) := by
  induction n with
  | zero => simp [Nat.mod_one]
  | succ n ih =>
    rw [Finset.sum_range_succ, ih, Nat.mul_succ, Nat.pow_add, Nat.mod_mul, Nat.mul_comm (2 ^ (8 * n)) (_ % _)]

/-- Packing the bytes of a word gives the word back (R107). -/
theorem leNat_wordBytes {w : Width} (v : Word w) : leNat (wordBytes v) = v.toNat := by
  rw [leNat_eq_sum, wordBytes_length]
  calc _ = ∑ k ∈ Finset.range w.bytes, v.toNat / 2 ^ (8 * k) % 256 * 2 ^ (8 * k) :=
        Finset.sum_congr rfl fun k hk => by rw [wordBytes_getD_toNat v (Finset.mem_range.mp hk)]
    _ = v.toNat % 2 ^ w.bits := by rw [sum_bytes_eq_mod, ← w.bits_eq]
    _ = v.toNat := Nat.mod_eq_of_lt v.isLt

/-- Unpacking a packed word gives its bytes back (R107). -/
theorem wordBytes_ofNat_leNat {w : Width} {cs : List Byte} (h : cs.length = w.bytes) :
    wordBytes (BitVec.ofNat w.bits (leNat cs)) = cs :=
  leNat_inj (by rw [wordBytes_length, h]) (by rw [leNat_wordBytes, ofNat_leNat_toNat h])

/-! ### Unpacking -/

theorem wordsToBytes_length {w : Width} (ws : List (Word w)) : (wordsToBytes ws).length = ws.length * w.bytes := by
  induction ws with
  | nil => simp
  | cons v ws ih => rw [wordsToBytes_cons, List.length_append, wordBytes_length, ih, List.length_cons, Nat.succ_mul, Nat.add_comm]

/-- Byte `j*u + k` of the unpacked words is byte k of word j (R106). -/
theorem wordsToBytes_getD {w : Width} {ws : List (Word w)} {j k : Nat} (hj : j < ws.length) (hk : k < w.bytes) :
    (wordsToBytes ws).getD (j * w.bytes + k) 0 = (wordBytes (ws.getD j 0)).getD k 0 := by
  induction ws generalizing j with
  | nil => cases hj
  | cons v ws ih =>
    rw [wordsToBytes_cons]
    cases j with
    | zero => rw [Nat.zero_mul, Nat.zero_add, List.getD_append _ _ _ _ (by rwa [wordBytes_length])]; rfl
    | succ j =>
      rw [Nat.succ_mul, Nat.add_right_comm, List.getD_append_right _ _ _ _ (by rw [wordBytes_length]; omega), wordBytes_length,
        Nat.add_sub_cancel, List.getD_cons_succ]
      exact ih (Nat.lt_of_succ_lt_succ hj)

/-! ### Packing -/

theorem bytesToWords_of_partial {w : Width} {bs : List Byte} (h : bs.length % w.bytes ≠ 0) :
    bytesToWords w bs = .error .lengthError := by
  rw [bytesToWords, if_neg h]

/-- The bytes `bs[j*u .. j*u+u-1]` of word j (R104). -/
def chunk (w : Width) (bs : List Byte) (j : Nat) : List Byte := (bs.drop (j * w.bytes)).take w.bytes

theorem chunk_length {w : Width} {bs : List Byte} {j : Nat} (hj : j < bs.length / w.bytes) : (chunk w bs j).length = w.bytes := by
  have h := (Nat.le_div_iff_mul_le w.bytes_pos).mp hj
  rw [Nat.succ_mul] at h
  rw [chunk, List.length_take, List.length_drop]
  omega

theorem chunk_getD {w : Width} (bs : List Byte) (j : Nat) {k : Nat} (hk : k < w.bytes) :
    (chunk w bs j).getD k 0 = bs.getD (j * w.bytes + k) 0 := by
  simp [chunk, List.getD_eq_getElem?_getD, hk]

/-- Whole words pack, one chunk to a word (R104). -/
theorem bytesToWords_of_whole {w : Width} {bs : List Byte} (h : bs.length % w.bytes = 0) :
    bytesToWords w bs = .ok ((List.range (bs.length / w.bytes)).map fun j => BitVec.ofNat w.bits (leNat (chunk w bs j))) := by
  rw [bytesToWords, if_pos h]; rfl

/-- Word j of a packing is the little-endian sum of its bytes (R104). -/
theorem bytesToWords_getElem_toNat {w : Width} {bs : List Byte} {ws : List (Word w)} (h : bytesToWords w bs = .ok ws)
    {j : Nat} (hj : j < ws.length) : ws[j].toNat = Ref.leSum w.bytes j fun n => (bs.getD n 0).toNat := by
  obtain ⟨hwhole, hcount⟩ := bytesToWords_length h
  have hlen := chunk_length (hcount ▸ hj)
  cases (bytesToWords_of_whole hwhole).symm.trans h
  rw [List.getElem_map, List.getElem_range, ofNat_leNat_toNat hlen, leNat_eq_sum, hlen]
  exact Finset.sum_congr rfl fun k hk => by rw [chunk_getD bs j (Finset.mem_range.mp hk)]

theorem eq_of_getD {cs ds : List Byte} (hlen : cs.length = ds.length) (h : ∀ k < cs.length, cs.getD k 0 = ds.getD k 0) :
    cs = ds := by
  refine List.ext_getElem hlen fun k hc hd => ?_
  rw [← List.getD_eq_getElem cs 0 hc, ← List.getD_eq_getElem ds 0 hd, h k hc]

/-- Unpacking a packing gives the bytes back (R107). -/
theorem wordsToBytes_of_packed {w : Width} {bs : List Byte} {ws : List (Word w)} (h : bytesToWords w bs = .ok ws) :
    wordsToBytes ws = bs := by
  obtain ⟨hwhole, hcount⟩ := bytesToWords_length h
  have hlen : (wordsToBytes ws).length = bs.length := by
    rw [wordsToBytes_length, hcount, Nat.div_mul_cancel (Nat.dvd_of_mod_eq_zero hwhole)]
  refine eq_of_getD hlen fun i hi => ?_
  have hj : i / w.bytes < ws.length := (Nat.div_lt_iff_lt_mul w.bytes_pos).mpr (wordsToBytes_length ws ▸ hi)
  have hk : i % w.bytes < w.bytes := Nat.mod_lt _ w.bytes_pos
  have hchunk := chunk_length (hcount ▸ hj)
  cases (bytesToWords_of_whole hwhole).symm.trans h
  rw [← Nat.div_add_mod' i w.bytes, wordsToBytes_getD hj hk, List.getD_eq_getElem _ _ hj, List.getElem_map, List.getElem_range,
    wordBytes_ofNat_leNat hchunk, chunk_getD bs _ hk]

/-- The bytes of word j are chunk j of the unpacked words. -/
theorem chunk_wordsToBytes {w : Width} {ws : List (Word w)} {j : Nat} (hj : j < ws.length) :
    chunk w (wordsToBytes ws) j = wordBytes ws[j] := by
  have hlen : (chunk w (wordsToBytes ws) j).length = w.bytes :=
    chunk_length (by rwa [wordsToBytes_length, Nat.mul_div_cancel _ w.bytes_pos])
  refine eq_of_getD (by rw [hlen, wordBytes_length]) fun k hk => ?_
  rw [hlen] at hk
  rw [chunk_getD _ j hk, wordsToBytes_getD hj hk, List.getD_eq_getElem _ _ hj]

/-- Packing unpacked words gives the words back (R107). -/
theorem bytesToWords_wordsToBytes {w : Width} (ws : List (Word w)) : bytesToWords w (wordsToBytes ws) = .ok ws := by
  have hlen := wordsToBytes_length ws
  rw [bytesToWords_of_whole (by rw [hlen, Nat.mul_mod_left]), hlen, Nat.mul_div_cancel _ w.bytes_pos]
  congr 1
  refine List.ext_getElem (by simp) fun j _ hj => ?_
  rw [List.getElem_map, List.getElem_range, chunk_wordsToBytes hj, leNat_wordBytes, BitVec.ofNat_toNat, BitVec.setWidth_eq]

/-! ### Key packing -/

/-- The number of words of the padded key is the rounded-up quotient (R105). -/
theorem padded_div_eq (w : Width) {b : Nat} (hb : b ≠ 0) : (b + padBytes w b) / w.bytes = Ref.keyWordCount w.bytes b := by
  have hu := w.bytes_pos
  have hpad : padBytes w b < w.bytes := Nat.mod_lt _ hu
  obtain ⟨q, hq⟩ := Nat.dvd_of_mod_eq_zero (padBytes_spec w b)
  have hq0 : q ≠ 0 := by rintro rfl; omega
  have hceil : (b + w.bytes - 1) / w.bytes = q := by
    refine Nat.div_eq_of_lt_le ?_ ?_
    · rw [Nat.mul_comm]; omega
    · rw [Nat.succ_mul, Nat.mul_comm]; omega
  rw [Ref.keyWordCount, hceil, hq, Nat.mul_div_cancel_left _ hu]
  omega

/-- The padding adds the zeros that a key's bytes past its length stand for (R105). -/
theorem padded_getD (w : Width) (bs : List Byte) (n : Nat) :
    ((bs ++ List.replicate (padBytes w bs.length) 0).getD n 0).toNat = if n < bs.length then (bs.getD n 0).toNat else 0 := by
  split
  · next h => rw [List.getD_append _ _ _ _ h]
  · next h =>
    rw [List.getD_append_right _ _ _ _ (Nat.not_lt.mp h), List.getD_eq_getElem?_getD, List.getElem?_getD_replicate_default_eq]
    rfl

/-- The words of a key, their number and their values (R105). -/
theorem keyWords_spec {w : Width} {bs : List Byte} {ws : List (Word w)} (h : keyWords w bs = .ok ws) :
    ws.length = Ref.keyWordCount w.bytes bs.length ∧
      ∀ j (hj : j < ws.length), ws[j].toNat = Ref.keyWord w.bytes bs.length j fun n => (bs.getD n 0).toNat := by
  unfold keyWords at h
  split at h
  · next h0 =>
    cases h
    have hu := w.bytes_pos
    refine ⟨?_, fun j hj => ?_⟩
    · rw [h0, Ref.keyWordCount, Nat.zero_add, Nat.div_eq_of_lt (by omega)]; rfl
    · simp [h0, Ref.keyWord, Ref.leSum]
  · next h0 =>
    refine ⟨?_, fun j hj => ?_⟩
    · rw [(bytesToWords_length h).2, List.length_append, List.length_replicate, padded_div_eq w h0]
    · simp only [bytesToWords_getElem_toNat h hj, padded_getD, Ref.keyWord]

end Sys2Proof.Machine
end

section
/-! SUPPORT. The commands that write Z alone, and PACKKEY, against the spec's formulas (41_word_arithmetic.md R108 to R113). -/

namespace Sys2Proof.Machine

/-- The width WIDTH() answers is the one the statements name (40_command_control.md R91). -/
theorem bits_of_readWidth {s : State} {w : Width} (h : readWidth s = .ok w) : w.bits = Ref.bits s := (readWidth_ok h).2.2.2

theorem readWidth_of_not_widthOk {s : State} (h : ¬ Ref.widthOk s) : readWidth s = .error .unsupportedWidth := by
  rcases readWidth_cases s with ⟨w, hw⟩ | hw
  · obtain ⟨hle, himpl, -, -⟩ := readWidth_ok hw
    exact absurd ⟨hle, himpl⟩ h
  · exact hw

/-- A command that needs only a width (R91) writes the value of its word to Z, or fails with UnsupportedWidthError. -/
theorem complete_width_writes_z {s : State} {f : ∀ w, Word w} {v : Nat} (hv : ∀ w, readWidth s = .ok w → (f w).toNat = v) :
    (Ref.widthOk s → complete s (do let w ← readWidth s; .ok { s with z := zextSlot (f w) }) =
      .next (Ref.ends { s with z := BitVec.ofNat 128 v })) ∧
    (¬ Ref.widthOk s → complete s (do let w ← readWidth s; .ok { s with z := zextSlot (f w) }) = .next (Ref.fails 1 s)) := by
  refine ⟨fun hok => ?_, fun hbad => ?_⟩
  · obtain ⟨w, hw, -⟩ := readWidth_of_widthOk hok
    rw [hw, ← hv w hw, ← zextSlot_eq_ofNat]; rfl
  · rw [readWidth_of_not_widthOk hbad]; rfl

/-! ### PACKKEY -/

theorem execPackkey_of_not_widthOk {s : State} (h : ¬ Ref.widthOk s) : execPackkey s = .next (Ref.fails 1 s) := by
  rw [execPackkey, readWidth_of_not_widthOk h]; rfl

theorem execPackkey_of_keylen_gt {s : State} {w : Width} (hw : readWidth s = .ok w) (hkeylen : s.keylen.toNat > 255) :
    execPackkey s = .next (Ref.fails 2 s) := by
  rw [execPackkey, hw, readKeyLen_of_gt hkeylen]; rfl

/-- PACKKEY is strict (R113). -/
theorem execPackkey_of_partial {s : State} {w : Width} (hw : readWidth s = .ok w) (hkeylen : s.keylen.toNat ≤ 255)
    (hpartial : s.keylen.toNat % w.bytes ≠ 0) : execPackkey s = .next (Ref.fails 3 s) := by
  have hpack : bytesToWords w (keyBytes s s.keylen.toNat) = .error .lengthError :=
    bytesToWords_of_partial (by rwa [keyBytes_length (by omega)])
  rw [execPackkey, hw, readKeyLen_of_le hkeylen]
  show complete s (do let words ← bytesToWords w (keyBytes s s.keylen.toNat); _) = _
  rw [hpack]; rfl

/-- The first n words of an array that was overlaid with n words hold their values; the other slots are kept. -/
theorem overlay_getElem_eq_ofNat {w : Width} {n : Nat} (ws : List (Word w)) (arr : Vector Slot n) {v : Nat → Nat}
    (hv : ∀ j (hj : j < ws.length), ws[j].toNat = v j) (j : Fin n) :
    (overlay ws arr)[j] = if j.val < ws.length then BitVec.ofNat 128 (v j) else arr[j] := by
  rw [Fin.getElem_fin, overlay_getElem ws arr j.val j.isLt]
  split
  · next hj => rw [zextSlot_eq_ofNat, hv j.val hj]
  · rfl

/-- The sum over the key's bytes is the one over KEY, as far as the key's words reach. -/
theorem leSum_keyBytes {s : State} {u b j : Nat} (hj : j < b / u) :
    (Ref.leSum u j fun n => ((keyBytes s b).getD n 0).toNat) = Ref.leSum u j (Ref.keyByte s) := by
  have hu : 0 < u := Nat.pos_of_ne_zero (by rintro rfl; simp at hj)
  have hend := (Nat.le_div_iff_mul_le hu).mp hj
  rw [Nat.succ_mul] at hend
  refine Finset.sum_congr rfl fun k hk => ?_
  have hlt : j * u + k < b := by have := Finset.mem_range.mp hk; omega
  simp only [keyBytes, Ref.keyByte, List.getD_eq_getElem?_getD, List.getElem?_take_of_lt hlt]

end Sys2Proof.Machine
end

section
/-! The obligations on word arithmetic (41_word_arithmetic.md). -/

namespace Sys2Proof.Proofs

open Sys2Proof Sys2Proof.Machine

/-- Settles O17: the rotations of any word are the formulas, and the formulas read the low w bits only. -/
theorem rotationsFollowTheirFormulas : Obligations.RotationsFollowTheirFormulas := by
  intro w x n
  have hn : n % w.bits ≤ w.bits := (Nat.mod_lt _ w.bits_pos).le
  refine ⟨?_, ?_, rotlW_zero _, (rotlW_mod _ n).symm, fun _ => rotation_terms_and (Nat.mod_lt _ (Nat.two_pow_pos _)) hn⟩
  · rw [rotlW_toNat, lowW_toNat, rotl_mod_operand]
  · rw [rotrW_toNat, lowW_toNat, rotr_mod_operand]

/-- Settles O18: the rotations act by adding up amounts modulo w, and a word and its bytes determine each other. -/
theorem primitiveLaws : Obligations.PrimitiveLaws := by
  intro w x y n m
  have hfull : rotlW x w.bits = x := by rw [← rotlW_mod, Nat.mod_self, rotlW_zero]
  have hright : rotlW x n = rotrW x ((w.bits - n % w.bits) % w.bits) := by
    rw [rotlW_eq_rotrW, rotrW_congr x (Nat.mod_modEq _ _)]
  have hxor : xorW (xorW x y) y = x := by rw [xorW, xorW, BitVec.xor_assoc, BitVec.xor_self, BitVec.xor_zero]
  have hpacking : (∀ ws : List (Word w), bytesToWords w (wordsToBytes ws) = .ok ws) ∧
      ∀ bs ws, bytesToWords w bs = .ok ws → wordsToBytes ws = bs :=
    ⟨bytesToWords_wordsToBytes, fun _ _ => wordsToBytes_of_packed⟩
  exact ⟨⟨BitVec.add_sub_cancel x y, BitVec.sub_add_cancel x y⟩, ⟨rotlW_zero x, hfull⟩, ⟨rotrW_rotlW x n, rotlW_rotrW x n⟩,
    ⟨(rotlW_mod x n).symm, hright⟩, rotlW_rotlW x n m, hpacking, hxor⟩

/-- Settles O19: whole words pack chunk by chunk, and a chunk of u bytes sums to less than 2^w. -/
theorem packingIsLittleEndian : Obligations.PackingIsLittleEndian := by
  refine fun w bs => ⟨bytesToWords_of_partial, fun hwhole => ?_⟩
  have hpack := bytesToWords_of_whole hwhole
  exact ⟨_, hpack, (bytesToWords_length hpack).2, fun _ => bytesToWords_getElem_toNat hpack⟩

/-- Settles O20: the padding makes the length a multiple of u. -/
theorem keyPackingPadsWithZeros : Obligations.KeyPackingPadsWithZeros := by
  intro w bs
  obtain ⟨ws, hpack⟩ := keyWords_isOk w bs
  exact ⟨ws, hpack, keyWords_spec hpack⟩

/-- Settles O21: the bytes of word j stand at j*u, since each word before it gives u bytes. -/
theorem unpackingGivesTheBytes : Obligations.UnpackingGivesTheBytes := by
  refine fun w ws => ⟨wordsToBytes_length ws, fun j k hj hk => ?_⟩
  rw [wordsToBytes_getD hj hk, wordBytes_getD_toNat _ hk]

/-- Settles O22: ADD needs only a width, and its word is the sum of the low words. -/
theorem addWritesTheSum : Obligations.AddWritesTheSum := by
  refine ⟨rfl, fun s => complete_width_writes_z (f := fun w => addW (lowW w s.x) (lowW w s.y)) fun w hw => ?_⟩
  rw [addW_toNat, lowW_toNat, lowW_toNat, bits_of_readWidth hw, Ref.add]

/-- Settles O23: SUB needs only a width, and its word is the difference of the low words. -/
theorem subWritesTheDifference : Obligations.SubWritesTheDifference := by
  refine ⟨rfl, fun s => complete_width_writes_z (f := fun w => subW (lowW w s.x) (lowW w s.y)) fun w hw => ?_⟩
  rw [subW_toNat, lowW_toNat, lowW_toNat, bits_of_readWidth hw]

/-- Settles O24: ROTL needs only a width, and its amount is the whole of Y modulo it. -/
theorem rotlWritesTheRotation : Obligations.RotlWritesTheRotation := by
  refine ⟨rfl, fun s => complete_width_writes_z (f := fun w => rotlW (lowW w s.x) (s.y.toNat % w.bits)) fun w hw => ?_⟩
  rw [rotlW_toNat, lowW_toNat, rotl_mod_operand, bits_of_readWidth hw]

/-- Settles O25: ROTR needs only a width, and its amount is the whole of Y modulo it. -/
theorem rotrWritesTheRotation : Obligations.RotrWritesTheRotation := by
  refine ⟨rfl, fun s => complete_width_writes_z (f := fun w => rotrW (lowW w s.x) (s.y.toNat % w.bits)) fun w hw => ?_⟩
  rw [rotrW_toNat, lowW_toNat, rotr_mod_operand, bits_of_readWidth hw]

/-- Settles O26: XOR needs only a width, and its word is the exclusive-or of the low words. -/
theorem xorWritesTheExclusiveOr : Obligations.XorWritesTheExclusiveOr := by
  refine ⟨rfl, fun s => complete_width_writes_z (f := fun w => xorW (lowW w s.x) (lowW w s.y)) fun w hw => ?_⟩
  rw [xorW_toNat, lowW_toNat, lowW_toNat, xor_mod_operands, bits_of_readWidth hw]

/-- Settles O27: the checks in their order, then the packed words laid over L. -/
theorem packkeyPacksTheKey : Obligations.PackkeyPacksTheKey := by
  refine ⟨rfl, fun s => ⟨execPackkey_of_not_widthOk, fun hok hkeylen => ?_, fun hok hkeylen hpartial => ?_,
    fun hok hkeylen hwhole => ?_⟩⟩
  all_goals obtain ⟨w, hw, hbits⟩ := readWidth_of_widthOk hok
  · exact execPackkey_of_keylen_gt hw hkeylen
  · exact execPackkey_of_partial hw hkeylen (bytes_eq_of_bits hbits ▸ hpartial)
  · rw [← bytes_eq_of_bits hbits] at hwhole ⊢
    obtain ⟨words, hwords, hcount, hnext⟩ := execPackkey_of_checks hw hkeylen hwhole
    refine ⟨_, hnext, rfl, ?_⟩
    rw [← hcount]
    refine overlay_getElem_eq_ofNat words s.lArr (v := fun j => Ref.leSum w.bytes j (Ref.keyByte s)) fun j hj => ?_
    rw [bytesToWords_getElem_toNat hwords hj, leSum_keyBytes (hcount ▸ hj)]

/-- Settles O15: reduction mod 2^w commutes with both operations. -/
theorem addAndSubAreModular : Obligations.AddAndSubAreModular := by
  refine fun w x y => ⟨?_, ?_⟩
  · rw [addW_toNat, lowW_toNat, lowW_toNat, ← Nat.add_mod]
  · rw [subW_toNat, lowW_toNat, lowW_toNat, sub_mod_operands]

/-- Settles O16: below w a low word has the bits of its slot, and above it none. -/
theorem xorIsBitwise : Obligations.XorIsBitwise := by
  intro w x y k
  rw [xorW, BitVec.getLsbD_xor, lowW, lowW, BitVec.getLsbD_setWidth, BitVec.getLsbD_setWidth]
  by_cases hk : k < w.bits <;> simp [hk]

end Sys2Proof.Proofs
end

section
/-! SUPPORT. The key schedule against the spec's formulas over the integers (42_key_schedule.md R120 to R124). -/

namespace Sys2Proof.Machine

/-! ### The magic constants and the initial S -/

/-- The constants of a width are those of the table's row for its W_SEL (43_magic_constants.md R134). -/
theorem magic_toNat_of_widthOfSel {ws : BitVec 3} {w : Width} (h : widthOfSel ws = some w) :
    (magicP w).toNat = Ref.tableP ws.toNat ∧ (magicQ w).toNat = Ref.tableQ ws.toNat := by
  have all : ∀ ws : BitVec 3, ∀ w ∈ widthOfSel ws,
      (magicP w).toNat = Ref.tableP ws.toNat ∧ (magicQ w).toNat = Ref.tableQ ws.toNat := by decide
  exact all ws w h

theorem initS_getD_zero {w : Width} {n : Nat} (p q : Word w) (hn : 0 < n) : (initS n p q).getD 0 0 = p := by
  cases n with
  | zero => cases hn
  | succ n => rfl

/-- The recurrence of R121. -/
theorem initS_getD_succ {w : Width} {n i : Nat} (p q : Word w) (hi : i + 1 < n) :
    (initS n p q).getD (i + 1) 0 = addW ((initS n p q).getD i 0) q := by
  induction n generalizing p i with
  | zero => cases hi
  | succ n ih =>
    cases i with
    | zero => exact initS_getD_zero (addW p q) q (by omega)
    | succ i => exact ih (addW p q) (by omega)

/-- The closed form that R121 derives from the recurrence. -/
theorem initS_getD_toNat {w : Width} {n i : Nat} (p q : Word w) (hi : i < n) :
    ((initS n p q).getD i 0).toNat = (p.toNat + i * q.toNat) % 2 ^ w.bits := by
  induction i with
  | zero => rw [initS_getD_zero p q hi, Nat.zero_mul, Nat.add_zero, Nat.mod_eq_of_lt p.isLt]
  | succ i ih => rw [initS_getD_succ p q hi, addW_toNat, ih (by omega), Nat.mod_add_mod, Nat.succ_mul, Nat.add_assoc]

/-! ### The mixing pass -/

/-- The words of a list have these values, as far as the list reaches. -/
def hasValues {w : Width} (ws : List (Word w)) (v : Nat → Nat) : Prop := ∀ i < ws.length, (ws.getD i 0).toNat = v i

/-- Replacing one word and its value keeps the rest. -/
theorem hasValues_set {w : Width} {ws : List (Word w)} {v : Nat → Nat} (h : hasValues ws v) {k k' n : Nat} {x : Word w}
    (hk : k = k') (hx : x.toNat = n) : hasValues (ws.set k x) (Function.update v k' n) := by
  subst hk hx
  intro i hi
  rw [List.length_set] at hi
  rw [List.getD_eq_getElem _ _ (by rwa [List.length_set]), List.getElem_set, Function.update_apply]
  by_cases hki : k = i
  · rw [if_pos hki, if_pos hki.symm]
  · rw [if_neg hki, if_neg (Ne.symm hki), ← List.getD_eq_getElem ws 0 hi, h i hi]

/-- The model's working values are the spec's over the integers, with both indices inside their arrays (R123). -/
structure Mixing.Computes {w : Width} (m : Mixing w) (v : Ref.Mix) : Prop where
  s : hasValues m.s v.s
  l : hasValues m.l v.l
  i : m.i = v.i
  j : m.j = v.j
  a : m.a.toNat = v.a
  b : m.b.toNat = v.b
  i_lt : m.i < m.s.length
  j_lt : m.j < m.l.length

/-- A and B both get a word of their array, added up and rotated (R123). -/
theorem rotlW_addW_addW_toNat {w : Width} (x y z : Word w) (n : Nat) :
    (rotlW (addW (addW x y) z) n).toNat = Ref.rotl w.bits (Ref.add w.bits (Ref.add w.bits x.toNat y.toNat) z.toNat) n := by
  rw [rotlW_toNat, addW_toNat, addW_toNat, Ref.add, Ref.add]

/-- One iteration computes the spec's iteration (R123). -/
theorem mixStep_computes {w : Width} {m : Mixing w} {v : Ref.Mix} (h : m.Computes v) :
    (mixStep m).Computes (Ref.mixStep w.bits m.s.length m.l.length v) := by
  obtain ⟨hs, hl, hi, hj, ha, hb, hilt, hjlt⟩ := h
  have ha' : (mixStep m).a.toNat = (Ref.mixStep w.bits m.s.length m.l.length v).a := by
    rw [mixStep, rotlW_addW_addW_toNat, hs m.i hilt, hi, ha, hb, Ref.mixStep]
  have hb' : (mixStep m).b.toNat = (Ref.mixStep w.bits m.s.length m.l.length v).b := by
    show (rotlW (addW (addW (m.l.getD m.j 0) (mixStep m).a) m.b) (addW (mixStep m).a m.b).toNat).toNat = _
    rw [rotlW_addW_addW_toNat, addW_toNat, hl m.j hjlt, hj, ha', hb]; rfl
  refine ⟨hasValues_set hs hi ha', hasValues_set hl hj hb', congrArg (fun i => (i + 1) % m.s.length) hi,
    congrArg (fun j => (j + 1) % m.l.length) hj, ha', hb', ?_, ?_⟩
  · rw [mixStep_s_length]; exact Nat.mod_lt _ (Nat.zero_lt_of_lt hilt)
  · rw [mixStep_l_length]; exact Nat.mod_lt _ (Nat.zero_lt_of_lt hjlt)

/-- The iterations of the mixing pass compute the spec's (R123). -/
theorem mixLoop_computes {w : Width} (t : Nat) {m : Mixing w} {v : Ref.Mix} (h : m.Computes v) :
    (mixLoop t m).Computes ((Ref.mixStep w.bits m.s.length m.l.length)^[t] v) := by
  induction t generalizing m v with
  | zero => exact h
  | succ t ih =>
    have hnext := ih (mixStep_computes h)
    rwa [mixStep_s_length, mixStep_l_length] at hnext

/-- The whole mixing pass computes the spec's (R123). -/
theorem mix_computes {w : Width} {s l : List (Word w)} {vs vl : Nat → Nat} (hs : hasValues s vs) (hl : hasValues l vl)
    (hspos : 0 < s.length) (hlpos : 0 < l.length) : (mix s l).Computes (Ref.mix w.bits s.length l.length vs vl) :=
  mixLoop_computes _ ⟨hs, hl, rfl, rfl, BitVec.toNat_zero, BitVec.toNat_zero, hspos, hlpos⟩

/-! ### SETKEY -/

/-- A word of the key reads KEY no further than the key's b bytes (41_word_arithmetic.md R105). -/
theorem keyWord_congr {u b j : Nat} {f g : Nat → Nat} (h : ∀ n < b, f n = g n) : Ref.keyWord u b j f = Ref.keyWord u b j g := by
  have hpadded : (fun n => if n < b then f n else 0) = fun n => if n < b then g n else 0 :=
    funext fun n => ite_congr rfl (h n) fun _ => rfl
  rw [Ref.keyWord, Ref.keyWord, hpadded]

theorem keyBytes_getD {s : State} {b n : Nat} (h : n < b) : ((keyBytes s b).getD n 0).toNat = Ref.keyByte s n := by
  simp only [keyBytes, Ref.keyByte, List.getD_eq_getElem?_getD, List.getElem?_take_of_lt h]

/-- The packed key has the words of R122. -/
theorem keyWords_hasValues {s : State} {w : Width} {l : List (Word w)} (hw : readWidth s = .ok w)
    (hkeylen : s.keylen.toNat ≤ 255) (hl : keyWords w (keyBytes s s.keylen.toNat) = .ok l) :
    l.length = Ref.keyWordCount (Ref.bytes s) s.keylen.toNat ∧
      hasValues l fun j => Ref.keyWord (Ref.bytes s) s.keylen.toNat j (Ref.keyByte s) := by
  obtain ⟨hcount, hwords⟩ := keyWords_spec hl
  rw [keyBytes_length (by omega), bytes_eq_of_bits (bits_of_readWidth hw)] at hcount hwords
  refine ⟨hcount, fun j hj => ?_⟩
  rw [List.getD_eq_getElem _ _ hj, hwords j hj]
  exact keyWord_congr fun n hn => keyBytes_getD hn

/-- The initial S has the words of R121. -/
theorem initS_hasValues {s : State} {w : Width} (hw : readWidth s = .ok w) (n : Nat) :
    hasValues (initS n (magicP w) (magicQ w)) fun i =>
      (Ref.tableP s.wSel.toNat + i * Ref.tableQ s.wSel.toNat) % 2 ^ Ref.bits s := by
  obtain ⟨-, -, hsel, -⟩ := readWidth_ok hw
  obtain ⟨hP, hQ⟩ := magic_toNat_of_widthOfSel hsel
  intro i hi
  rw [initS_length] at hi
  rw [initS_getD_toNat _ _ hi, hP, hQ, bits_of_readWidth hw]

/-- SETKEY's mixed words are the spec's (R123). -/
theorem mix_computes_schedule {s : State} {w : Width} {l : List (Word w)} (hw : readWidth s = .ok w)
    (hkeylen : s.keylen.toNat ≤ 255) (hl : keyWords w (keyBytes s s.keylen.toNat) = .ok l) :
    (mix (initS (2 * s.rounds.toNat + 2) (magicP w) (magicQ w)) l).Computes (Ref.schedule s) := by
  obtain ⟨hcount, hkey⟩ := keyWords_hasValues hw hkeylen hl
  have hspos : 0 < (initS (2 * s.rounds.toNat + 2) (magicP w) (magicQ w)).length := by rw [initS_length]; exact Nat.succ_pos _
  have hlpos : 0 < l.length := by rw [hcount, Ref.keyWordCount]; exact lt_max_of_lt_left one_pos
  have hmix := mix_computes (initS_hasValues hw _) hkey hspos hlpos
  rwa [initS_length, hcount, bits_of_readWidth hw] at hmix

/-- The mixed words laid over S and L, their numbers, and the command's end are all that a commit writes (R124). -/
theorem finish_commitKey {w : Width} {m : Mixing w} {c : Nat} (hcount : m.l.length = c) (r : Nat) (s : State) :
    finish (commitKey m r s) = Ref.ends { s with
      sArr := overlay m.s s.sArr, lArr := overlay m.l s.lArr
      slen := BitVec.ofNat 10 (2 * r + 2), llen := BitVec.ofNat 9 c } := by
  subst hcount; rfl

theorem execSetkey_of_not_widthOk {s : State} (h : ¬ Ref.widthOk s) : execSetkey s = .next (Ref.fails 1 s) := by
  rw [execSetkey, readWidth_of_not_widthOk h]; rfl

theorem execSetkey_of_rounds_gt {s : State} {w : Width} (hw : readWidth s = .ok w) (hrounds : s.rounds.toNat > 255) :
    execSetkey s = .next (Ref.fails 2 s) := by
  rw [execSetkey, hw, readRounds_of_gt hrounds]; rfl

/-- Both parameter checks raise the same error, so their order does not show (60_exceptions.md R152). -/
theorem execSetkey_of_keylen_gt {s : State} {w : Width} (hw : readWidth s = .ok w) (hkeylen : s.keylen.toNat > 255) :
    execSetkey s = .next (Ref.fails 2 s) := by
  rcases readRounds_cases s with ⟨-, hr⟩ | hr <;> rw [execSetkey, hw, hr]
  · rw [readKeyLen_of_gt hkeylen]; rfl
  · rfl

/-- What is below a length register that was written with a count is below the count. -/
theorem lt_of_lt_toNat_ofNat {m c k : Nat} (h : k < (BitVec.ofNat m c).toNat) : k < c :=
  lt_of_lt_of_le h (BitVec.toNat_ofNat c m ▸ Nat.mod_le c (2 ^ m))

theorem overlay_getElem_of_hasValues {w : Width} {n : Nat} {ws : List (Word w)} {v : Nat → Nat} (h : hasValues ws v)
    (arr : Vector Slot n) (i : Fin n) :
    (overlay ws arr)[i] = if i.val < ws.length then BitVec.ofNat 128 (v i) else arr[i] :=
  overlay_getElem_eq_ofNat ws arr (fun j hj => by rw [← h j hj, List.getD_eq_getElem _ _ hj]) i

/-- The schedule reads its state's width, round count, key length and the key's bytes (R125). -/
theorem schedule_congr {s₁ s₂ : State} (hsel : s₂.wSel = s₁.wSel) (hrounds : s₂.rounds = s₁.rounds)
    (hkeylen : s₂.keylen = s₁.keylen) (hkey : ∀ n < s₁.keylen.toNat, Ref.keyByte s₂ n = Ref.keyByte s₁ n) :
    Ref.schedule s₂ = Ref.schedule s₁ := by
  simp only [Ref.schedule, Ref.bytes, Ref.bits, hsel, hrounds, hkeylen, keyWord_congr hkey]

end Sys2Proof.Machine
end

section
/-! The obligations on the key schedule (42_key_schedule.md). -/

namespace Sys2Proof.Proofs

open Sys2Proof Sys2Proof.Machine

/-- Settles O31: the closed form follows from the recurrence, since each word is an add of the one before. -/
theorem initialScheduleIsArithmeticProgression : Obligations.InitialScheduleIsArithmeticProgression := fun _ n =>
  ⟨initS_length n _ _, initS_getD_zero _ _, fun _ => initS_getD_succ _ _, fun _ => initS_getD_toNat _ _⟩

/-- Settles O32: the checks in their order, then the mixed words, which are the spec's, laid over S and L. -/
theorem setkeyDerivesTheExpandedKey : Obligations.SetkeyDerivesTheExpandedKey := by
  refine ⟨rfl, fun s => ⟨execSetkey_of_not_widthOk, fun hok hbad => ?_, fun hok hrounds hkeylen => ?_⟩⟩
  all_goals obtain ⟨w, hw, -⟩ := readWidth_of_widthOk hok
  · exact hbad.elim (execSetkey_of_rounds_gt hw) (execSetkey_of_keylen_gt hw)
  · obtain ⟨l, hl, hnext⟩ := execSetkey_of_checks hw hrounds hkeylen
    obtain ⟨hcount, -⟩ := keyWords_hasValues hw hkeylen hl
    have hmix := mix_computes_schedule hw hkeylen hl
    have hsArr := overlay_getElem_of_hasValues hmix.s s.sArr
    have hlArr := overlay_getElem_of_hasValues hmix.l s.lArr
    rw [mix_s_length, initS_length] at hsArr
    rw [mix_l_length, hcount] at hlArr
    exact ⟨_, hnext, finish_commitKey (by rw [mix_l_length, hcount]) _ s, hsArr, hlArr⟩

/-- What a SETKEY whose checks succeed leaves: the lengths, and below them the words of the schedule. -/
theorem setkey_commits {s t : State} (hok : Ref.widthOk s) (hrounds : s.rounds.toNat ≤ 255) (hkeylen : s.keylen.toNat ≤ 255)
    (hexec : exec .setkey s = .next t) :
    t.slen = BitVec.ofNat 10 (2 * s.rounds.toNat + 2) ∧
      t.llen = BitVec.ofNat 9 (Ref.keyWordCount (Ref.bytes s) s.keylen.toNat) ∧
      (∀ i : Fin 512, i.val < t.slen.toNat → t.sArr[i] = BitVec.ofNat 128 ((Ref.schedule s).s i)) ∧
      ∀ j : Fin 256, j.val < t.llen.toNat → t.lArr[j] = BitVec.ofNat 128 ((Ref.schedule s).l j) := by
  obtain ⟨-, hsetkey⟩ := setkeyDerivesTheExpandedKey
  obtain ⟨-, -, hcommits⟩ := hsetkey s
  obtain ⟨u, hnext, hu, hsArr, hlArr⟩ := hcommits hok hrounds hkeylen
  cases hexec.symm.trans hnext
  have hslen : t.slen = BitVec.ofNat 10 (2 * s.rounds.toNat + 2) := congrArg State.slen hu
  have hllen : t.llen = BitVec.ofNat 9 (Ref.keyWordCount (Ref.bytes s) s.keylen.toNat) := congrArg State.llen hu
  refine ⟨hslen, hllen, fun i hi => ?_, fun j hj => ?_⟩
  · rw [hsArr, if_pos (lt_of_lt_toNat_ofNat (hslen ▸ hi))]
  · rw [hlArr, if_pos (lt_of_lt_toNat_ofNat (hllen ▸ hj))]

/-- Settles O33: each state commits the words of its schedule, and the two states have one schedule. -/
theorem setkeyDependsOnlyOnKeyAndParameters : Obligations.SetkeyDependsOnlyOnKeyAndParameters := by
  intro s₁ s₂ t₁ t₂ hok₁ hrounds₁ hkeylen₁ hok₂ hsel hrounds hkeylen hkey hexec₁ hexec₂
  obtain ⟨hslen₁, hllen₁, hs₁, hl₁⟩ := setkey_commits hok₁ hrounds₁ hkeylen₁ hexec₁
  obtain ⟨hslen₂, hllen₂, hs₂, hl₂⟩ := setkey_commits hok₂ (hrounds ▸ hrounds₁) (hkeylen ▸ hkeylen₁) hexec₂
  have hsched : Ref.schedule s₂ = Ref.schedule s₁ := schedule_congr hsel hrounds hkeylen hkey
  have hbytes : Ref.bytes s₂ = Ref.bytes s₁ := by rw [Ref.bytes, Ref.bits, hsel, Ref.bytes, Ref.bits]
  have hslen : t₁.slen = t₂.slen := by rw [hslen₁, hslen₂, hrounds]
  have hllen : t₁.llen = t₂.llen := by rw [hllen₁, hllen₂, hbytes, hkeylen]
  refine ⟨hslen, hllen, fun i hi => ?_, fun j hj => ?_⟩
  · rw [hs₁ i hi, hs₂ i (hslen ▸ hi), hsched]
  · rw [hl₁ j hj, hl₂ j (hllen ▸ hj), hsched]

end Sys2Proof.Proofs
end

section
/-! SUPPORT. The magic constants against e and the golden ratio (43_magic_constants.md R132 to R134). One series at 128 bits serves
every width: the narrower constants are read off the 128-bit ones by comparing numbers. -/

namespace Sys2Proof.Machine

/-! ### The function Odd (R133) -/

/-- What R132 and R133 say of the constant `n` of width w and of the real `x` it rounds. -/
def isOddRounding (w n : Nat) (x : ℝ) : Prop :=
  0 < x ∧ x < 2 ^ w - 1 ∧ n % 2 = 1 ∧ n = ⌊x⌋₊ ||| 1 ∧ ∀ m : ℤ, m % 2 = 1 → |(n : ℝ) - x| ≤ |(m : ℝ) - x|

/-- `OR 1` sets bit 0 and keeps the bits above it. -/
theorem or_one_eq (n : Nat) : n ||| 1 = 2 * (n / 2) + 1 := by
  apply Nat.eq_of_testBit_eq
  intro i
  cases i with
  | zero => simp
  | succ i => simp [Nat.testBit_succ, Nat.or_div_two, Nat.mul_add_div]

/-- An odd n less than 1 away from x is `floor(x) OR 1`, because `n / 2` is the floor of `x / 2`. -/
theorem floor_or_one_eq {n : Nat} {x : ℝ} (hodd : n % 2 = 1) (hnear : |(n : ℝ) - x| < 1) : ⌊x⌋₊ ||| 1 = n := by
  obtain ⟨k, rfl⟩ : ∃ k, n = 2 * k + 1 := ⟨n / 2, by omega⟩
  obtain ⟨hlo, hhi⟩ := abs_lt.mp hnear
  push_cast at hlo hhi
  have hk : (0 : ℝ) ≤ k := k.cast_nonneg
  have hhalf : ⌊x / 2⌋₊ = k := (Nat.floor_eq_iff (by linarith)).mpr ⟨by linarith, by linarith⟩
  rw [or_one_eq, ← Nat.floor_div_ofNat, hhalf]

/-- An odd n less than 1 away from x is the nearest odd integer, because every other one is at least 2 away from n. -/
theorem abs_sub_le_of_odd {n : Nat} {x : ℝ} (hodd : n % 2 = 1) (hnear : |(n : ℝ) - x| < 1) {m : ℤ} (hm : m % 2 = 1) :
    |(n : ℝ) - x| ≤ |(m : ℝ) - x| := by
  rcases eq_or_ne m n with rfl | hne
  · rfl
  have hgap : 2 ≤ |m - (n : ℤ)| := by rw [le_abs]; omega
  have hgap' : (2 : ℝ) ≤ |(m : ℝ) - n| := by exact_mod_cast hgap
  have htri := abs_sub_le (m : ℝ) x n
  rw [abs_sub_comm x] at htri
  linarith

theorem isOddRounding_of_near {w n : Nat} {x : ℝ} (hodd : n % 2 = 1) (hroom : n + 2 ≤ 2 ^ w) (hnear : |(n : ℝ) - x| < 1) :
    isOddRounding w n x := by
  obtain ⟨hlo, hhi⟩ := abs_lt.mp hnear
  have hone : (1 : ℝ) ≤ n := by exact_mod_cast (by omega : 1 ≤ n)
  have hroom' : (n : ℝ) + 2 ≤ 2 ^ w := by exact_mod_cast hroom
  exact ⟨by linarith, by linarith, hodd, (floor_or_one_eq hodd hnear).symm, fun m => abs_sub_le_of_odd hodd hnear⟩

/-! ### From 128 bits to every width -/

/-- The w-bit constant n is odd and below `2^w - 1`, and the 128-bit N is less than one unit of n's last place away from it. -/
def isShortening (w n N : Nat) : Prop :=
  n % 2 = 1 ∧ n + 2 ≤ 2 ^ w ∧ n * 2 ^ (128 - w) < N + 2 ^ (128 - w) ∧ N < (n + 1) * 2 ^ (128 - w)

/-- Integers less than a unit apart leave 1 to spare, and N is less than 1 away from its real. -/
theorem near_of_isShortening {w n N : Nat} {c : ℝ} (hw : w ≤ 128) (hshort : isShortening w n N)
    (hnear : |(N : ℝ) - c * 2 ^ 128| < 1) : |(n : ℝ) - c * 2 ^ w| < 1 := by
  obtain ⟨-, -, hlo, hhi⟩ := hshort
  obtain ⟨hNlo, hNhi⟩ := abs_lt.mp hnear
  have hunit : (0 : ℝ) < 2 ^ (128 - w) := by positivity
  have hlo' : (n : ℝ) * 2 ^ (128 - w) + 1 ≤ N + 2 ^ (128 - w) := by exact_mod_cast hlo
  have hhi' : (N : ℝ) + 1 ≤ (n + 1) * 2 ^ (128 - w) := by exact_mod_cast hhi
  rw [← Nat.add_sub_cancel' hw, pow_add, ← mul_assoc] at hNlo hNhi
  have hbelow : (n : ℝ) - 1 < c * 2 ^ w := lt_of_mul_lt_mul_right (by linarith) hunit.le
  have habove : c * 2 ^ w < n + 1 := lt_of_mul_lt_mul_right (by linarith) hunit.le
  exact abs_lt.mpr ⟨by linarith, by linarith⟩

theorem isOddRounding_of_isShortening {w n N : Nat} {c : ℝ} (hw : w ≤ 128) (hshort : isShortening w n N)
    (hnear : |(N : ℝ) - c * 2 ^ 128| < 1) : isOddRounding w n (c * 2 ^ w) := by
  have hnear' := near_of_isShortening hw hshort hnear
  obtain ⟨hodd, hroom, -, -⟩ := hshort
  exact isOddRounding_of_near hodd hroom hnear'

theorem magic_isShortening (w : Width) :
    isShortening w.bits (magicP w).toNat (magicP .w128).toNat ∧ isShortening w.bits (magicQ w).toNat (magicQ .w128).toNat := by
  unfold isShortening
  cases w <;> decide

/-! ### The constants of 128 bits -/

/-- e by its factorial series (R132), of which 36 terms leave less than `2^-138`. -/
theorem magicP_128_near : |((magicP .w128).toNat : ℝ) - (Real.exp 1 - 2) * 2 ^ 128| < 1 := by
  have hseries := Real.exp_bound (x := 1) (by simp) (n := 36) (by decide)
  norm_num [Finset.sum_range_succ, Nat.factorial] at hseries
  obtain ⟨hlo, hhi⟩ := abs_le.mp hseries
  rw [show (magicP .w128).toNat = 0xB7E151628AED2A6ABF7158809CF4F3C7 from rfl, abs_lt]
  constructor <;> push_cast <;> linarith

/-- The square root of 5 between two rationals, by their squares. -/
theorem magicQ_128_near : |((magicQ .w128).toNat : ℝ) - ((1 + Real.sqrt 5) / 2 - 1) * 2 ^ 128| < 1 := by
  have hlo : (1 + 2 * 0x9E3779B97F4A7C15F39CC0605CEDC834 / 2 ^ 128 : ℝ) < Real.sqrt 5 :=
    Real.lt_sqrt_of_sq_lt (by norm_num)
  have hhi : Real.sqrt 5 < 1 + 2 * 0x9E3779B97F4A7C15F39CC0605CEDC836 / 2 ^ 128 :=
    (Real.sqrt_lt' (by norm_num)).mpr (by norm_num)
  rw [show (magicQ .w128).toNat = 0x9E3779B97F4A7C15F39CC0605CEDC835 from rfl, abs_lt]
  constructor <;> push_cast <;> linarith

end Sys2Proof.Machine
end

section
/-! The obligations on the magic constants (43_magic_constants.md). -/

namespace Sys2Proof.Proofs

open Sys2Proof Sys2Proof.Machine

/-- Settles O28: MAGICP needs only a width, and its word is the table's. -/
theorem magicpWritesP : Obligations.MagicpWritesP := by
  refine ⟨rfl, fun s => complete_width_writes_z (f := magicP) fun w hw => ?_⟩
  obtain ⟨-, -, hsel, -⟩ := readWidth_ok hw
  exact (magic_toNat_of_widthOfSel hsel).1

/-- Settles O29: MAGICQ needs only a width, and its word is the table's. -/
theorem magicqWritesQ : Obligations.MagicqWritesQ := by
  refine ⟨rfl, fun s => complete_width_writes_z (f := magicQ) fun w hw => ?_⟩
  obtain ⟨-, -, hsel, -⟩ := readWidth_ok hw
  exact (magic_toNat_of_widthOfSel hsel).2

/-- Settles O30: both reals are less than 1 away from the 128-bit constants, of which the narrower ones are shortenings. -/
theorem magicConstantsAreTheNearestOddIntegers : Obligations.MagicConstantsAreTheNearestOddIntegers := by
  intro w
  obtain ⟨hP, hQ⟩ := magic_isShortening w
  exact ⟨isOddRounding_of_isShortening w.bits_le hP magicP_128_near, isOddRounding_of_isShortening w.bits_le hQ magicQ_128_near⟩

end Sys2Proof.Proofs
end

section
/-! SUPPORT. The input check of the cipher commands, and the cipher against the spec's formulas over the integers
(44_cipher_engine.md R139 to R142). -/

namespace Sys2Proof.Machine

/-! ### The input check (R141) -/

theorem cipherInputs_of_not_widthOk {s : State} (h : ¬ Ref.widthOk s) : cipherInputs s = .error .unsupportedWidth := by
  rw [cipherInputs, readWidth_of_not_widthOk h]; rfl

theorem cipherInputs_of_rounds_gt {s : State} (hok : Ref.widthOk s) (hrounds : s.rounds.toNat > 255) :
    cipherInputs s = .error .invalidParameters := by
  obtain ⟨w, hw, -⟩ := readWidth_of_widthOk hok
  rw [cipherInputs, hw, readRounds_of_gt hrounds]; rfl

theorem cipherInputs_of_slen_ne {s : State} (hok : Ref.widthOk s) (hrounds : s.rounds.toNat ≤ 255)
    (hslen : s.slen.toNat ≠ 2 * s.rounds.toNat + 2) : cipherInputs s = .error .invalidExpandedKey := by
  obtain ⟨w, hw, -⟩ := readWidth_of_widthOk hok
  rw [cipherInputs, hw, readRounds_of_le hrounds]
  exact if_pos hslen

/-- The check of the S slots misses none of them, since the slots it reads exist. -/
theorem keySlot_lt_of_take_fitsW {s : State} {w : Width} {n i : Nat} (hn : n ≤ 512)
    (h : (s.sArr.toList.take n).all (fitsW w) = true) (hi : i < n) : Ref.keySlot s i < 2 ^ w.bits := by
  have hlen : i < s.sArr.toList.length := by rw [Vector.length_toList]; omega
  rw [Ref.keySlot, List.getD_eq_getElem _ _ hlen, ← fitsW_iff]
  exact List.all_eq_true.mp h _ (List.mem_take_iff_getElem.mpr ⟨i, lt_min hi hlen, rfl⟩)

theorem cipherInputs_of_blockTooWide {s : State} (hok : Ref.widthOk s) (hrounds : s.rounds.toNat ≤ 255)
    (hslen : s.slen.toNat = 2 * s.rounds.toNat + 2) (hwide : Ref.blockTooWide s) :
    cipherInputs s = .error .mismatchedWidth := by
  obtain ⟨w, hw, hbits⟩ := readWidth_of_widthOk hok
  rw [Ref.blockTooWide, ← hbits] at hwide
  rw [cipherInputs, hw, readRounds_of_le hrounds]
  simp only [bind, Except.bind, hslen, ne_eq, not_true_eq_false, if_false, Bool.not_eq_true']
  split_ifs with ha hb hs
  iterate 3 rfl
  rw [Bool.not_eq_false] at ha hb hs
  rcases hwide with hA | hB | ⟨i, hi, hS⟩
  · exact absurd ((fitsW_iff w _).mp ha) hA.not_gt
  · exact absurd ((fitsW_iff w _).mp hb) hB.not_gt
  · exact absurd (keySlot_lt_of_take_fitsW (by omega) hs hi) hS.not_gt

/-- With the round count and SLEN in order, a word that does not fit is all that is left to fail. -/
theorem blockTooWide_of_not_cipherOk {s : State} (hrounds : s.rounds.toNat ≤ 255)
    (hslen : s.slen.toNat = 2 * s.rounds.toNat + 2) (hbad : ¬ Ref.cipherOk s) : Ref.blockTooWide s := by
  by_contra hfit
  simp only [Ref.blockTooWide, not_or, not_exists, not_and, Nat.not_le] at hfit
  exact hbad ⟨hrounds, hslen, hfit⟩

/-- A failing check reports the first error of R159. -/
theorem cipherInputs_error {i : Instr} {s : State} (hi : Ref.isCipher i) (hbad : ¬ (Ref.widthOk s ∧ Ref.cipherOk s)) :
    ∃ e, cipherInputs s = .error e ∧ errorCode e = Ref.firstError i s := by
  have huses : Ref.usesWidth i ∧ Ref.usesRounds i ∧ ¬ Ref.usesKeyLen i ∧ i ≠ .packkey := by
    rcases hi with rfl | rfl <;> simp [Ref.usesWidth, Ref.usesRounds, Ref.usesKeyLen]
  obtain ⟨hwidth, hround, hkeylen, hpack⟩ := huses
  by_cases hok : Ref.widthOk s
  case neg => exact ⟨_, cipherInputs_of_not_widthOk hok, by simp [Ref.firstError, hwidth, hok, errorCode]⟩
  by_cases hrounds : s.rounds.toNat > 255
  case pos => exact ⟨_, cipherInputs_of_rounds_gt hok hrounds, by simp [Ref.firstError, hok, hround, hrounds, errorCode]⟩
  have hle := Nat.not_lt.mp hrounds
  by_cases hslen : s.slen.toNat = 2 * s.rounds.toNat + 2
  case neg =>
    exact ⟨_, cipherInputs_of_slen_ne hok hle hslen,
      by simp [Ref.firstError, hok, hrounds, hkeylen, hpack, hi, Nat.mul_succ, hslen, errorCode]⟩
  have hwide := blockTooWide_of_not_cipherOk hle hslen fun hin => hbad ⟨hok, hin⟩
  exact ⟨_, cipherInputs_of_blockTooWide hok hle hslen hwide,
    by simp [Ref.firstError, hok, hrounds, hkeylen, hpack, hi, Nat.mul_succ, hslen, hwide, errorCode]⟩

/-- A cipher command ends with the error of its input check (R141). -/
theorem exec_of_cipherInputs_error {i : Instr} {s : State} {e : CmdError} (hi : Ref.isCipher i)
    (h : cipherInputs s = .error e) : exec i s = .next (Ref.fails (errorCode e) s) := by
  rcases hi with rfl | rfl
  · rw [exec, execEncrypt, h]; rfl
  · rw [exec, execDecrypt, h]; rfl

theorem exec_reports_firstError {i : Instr} {s : State} (hi : Ref.isCipher i) (hbad : ¬ (Ref.widthOk s ∧ Ref.cipherOk s)) :
    exec i s = .next (Ref.fails (Ref.firstError i s) s) ∧ Ref.firstError i s ≠ 0 := by
  obtain ⟨e, herror, hcode⟩ := cipherInputs_error hi hbad
  rw [← hcode]
  exact ⟨exec_of_cipherInputs_error hi herror, errorCode_ne_zero e⟩

/-! ### The block in the state -/

/-- The block (A, B) as w-bit words. -/
def State.block (s : State) (w : Width) : Word w × Word w := (lowW w s.a, lowW w s.b)

/-- The state with the block (A, B) replaced. -/
def State.setBlock {w : Width} (s : State) (ab : Word w × Word w) : State :=
  { s with a := zextSlot ab.1, b := zextSlot ab.2 }

@[simp] theorem block_finish_setBlock {w : Width} (s : State) (ab : Word w × Word w) :
    (finish (s.setBlock ab)).block w = ab :=
  Prod.ext (lowW_zextSlot ab.1) (lowW_zextSlot ab.2)

@[simp] theorem expandedKey_finish_setBlock {w : Width} (s : State) (ab : Word w × Word w) (v : Width) :
    expandedKey v (finish (s.setBlock ab)) = expandedKey v s := rfl

theorem finish_setBlock_finish_setBlock {w : Width} (s : State) (ab cd : Word w × Word w) :
    finish ((finish (s.setBlock ab)).setBlock cd) = finish (s.setBlock cd) := rfl

/-- A block that fits is what its words are. -/
theorem setBlock_block {s : State} {w : Width} (hbits : w.bits = Ref.bits s) (h : Ref.cipherOk s) :
    s.setBlock (s.block w) = s := by
  obtain ⟨-, -, ha, hb, -⟩ := h
  rw [← hbits, ← fitsW_iff] at ha hb
  rw [State.setBlock, State.block, zextSlot_lowW ha, zextSlot_lowW hb]

/-- The inputs pass again after a command: its block fits, and the other checks do not read it. -/
theorem cipherInputs_finish_setBlock {s : State} {w : Width} (hw : readWidth s = .ok w) (hbits : w.bits = Ref.bits s)
    (h : Ref.cipherOk s) (ab : Word w × Word w) : cipherInputs (finish (s.setBlock ab)) = .ok (w, s.rounds.toNat) := by
  obtain ⟨hrounds, hslen, -, -, hslots⟩ := h
  have hlt : ∀ v : Word w, (zextSlot v).toNat < 2 ^ Ref.bits s := fun v => hbits ▸ zextSlot_toNat_lt v
  exact cipherInputs_of_cipherOk (s := finish (s.setBlock ab)) hw hbits ⟨hrounds, hslen, hlt ab.1, hlt ab.2, hslots⟩

/-- The words of the expanded key that the cipher reads are the slots' (R141). -/
theorem expandedKey_toNat {s : State} {w : Width} (hbits : w.bits = Ref.bits s) (h : Ref.cipherOk s) {i : Nat}
    (hi : i < 2 * s.rounds.toNat + 2) : (expandedKey w s i).toNat = Ref.keySlot s i := by
  obtain ⟨-, -, -, -, hslots⟩ := h
  rw [expandedKey, lowW_toNat, hbits]
  exact Nat.mod_eq_of_lt (hslots i hi)

/-! ### What both commands do -/

/-- A new block from the expanded key, the round count and the block before. -/
abbrev BlockFn : Type := ∀ w, (Nat → Word w) → Nat → Word w × Word w → Word w × Word w

/-- When its inputs pass, the command writes the block that f gives and nothing else but STATUS. -/
def RunsBlock (i : Instr) (f : BlockFn) : Prop :=
  ∀ (s : State) (w : Width) (r : Nat), cipherInputs s = .ok (w, r) →
    exec i s = .next (finish (s.setBlock (f w (expandedKey w s) r (s.block w))))

theorem encrypt_runsBlock : RunsBlock .encrypt @encryptBlock := fun s w r h => by rw [exec, execEncrypt, h]; rfl

theorem decrypt_runsBlock : RunsBlock .decrypt @decryptBlock := fun s w r h => by rw [exec, execDecrypt, h]; rfl

/-- The values of two words. -/
def values {w : Width} (ab : Word w × Word w) : Nat × Nat := (ab.1.toNat, ab.2.toNat)

theorem values_block {s : State} {w : Width} (hbits : w.bits = Ref.bits s) (h : Ref.cipherOk s) :
    values (s.block w) = (s.a.toNat, s.b.toNat) := by
  obtain ⟨-, -, ha, hb, -⟩ := h
  rw [← hbits] at ha hb
  rw [values, State.block, lowW_toNat, lowW_toNat, Nat.mod_eq_of_lt ha, Nat.mod_eq_of_lt hb]

/-- A command whose block function has the values p writes p. -/
theorem RunsBlock.exec_eq {i : Instr} {f : BlockFn} (hf : RunsBlock i f) {s : State} {p : Nat × Nat}
    (hok : Ref.widthOk s) (hin : Ref.cipherOk s)
    (hp : ∀ w, w.bits = Ref.bits s → values (f w (expandedKey w s) s.rounds.toNat (s.block w)) = p) :
    exec i s = .next (Ref.ends { s with a := BitVec.ofNat 128 p.1, b := BitVec.ofNat 128 p.2 }) := by
  obtain ⟨w, hw, hbits⟩ := readWidth_of_widthOk hok
  rw [hf s w _ (cipherInputs_of_cipherOk hw hbits hin), State.setBlock, zextSlot_eq_ofNat, zextSlot_eq_ofNat, ← hp w hbits]
  rfl

/-! ### The cipher over the integers (R139, R140) -/

/-- ENCRYPT's words have the values of R139, for a key whose words have the values v. -/
theorem encryptBlock_values {w : Width} {k : Nat → Word w} {v : Nat → Nat} {r : Nat} (ab : Word w × Word w)
    (hk : ∀ i < 2 * r + 2, (k i).toNat = v i) :
    values (encryptBlock k r ab) = Ref.encrypt w.bits v (values ab).1 (values ab).2 r := by
  induction r with
  | zero => simp [encryptBlock, encryptRounds, Ref.encrypt, Ref.add, values, hk]
  | succ r ih =>
    have hrounds := ih fun i hi => hk i (by omega)
    have ha := hk (2 * (r + 1)) (by omega)
    have hb := hk (2 * (r + 1) + 1) (by omega)
    rw [Ref.encrypt, ← hrounds]
    simp only [encryptBlock, encryptRounds, encryptRound, values, addW_toNat, rotlW_toNat, xorW_toNat, ha, hb, Ref.add]

/-- DECRYPT's words have the values of R140, for a key whose words have the values v. -/
theorem decryptBlock_values {w : Width} {k : Nat → Word w} {v : Nat → Nat} {r : Nat} (ab : Word w × Word w)
    (hk : ∀ i < 2 * r + 2, (k i).toNat = v i) :
    values (decryptBlock k r ab) = Ref.decrypt w.bits v r (values ab).1 (values ab).2 := by
  induction r generalizing ab with
  | zero => simp [decryptBlock, decryptRounds, Ref.decrypt, subW_toNat, values, hk]
  | succ r ih =>
    have hrounds := ih (decryptRound k (r + 1) ab) fun i hi => hk i (by omega)
    have ha := hk (2 * (r + 1)) (by omega)
    have hb := hk (2 * (r + 1) + 1) (by omega)
    rw [decryptBlock, decryptRounds, Ref.decrypt]
    refine hrounds.trans ?_
    simp only [decryptRound, values, xorW_toNat, rotrW_toNat, subW_toNat, ha, hb]

/-! ### Each command undoes the other (R142) -/

@[simp] theorem subW_addW {w : Width} (x y : Word w) : subW (addW x y) y = x := BitVec.add_sub_cancel x y

@[simp] theorem addW_subW {w : Width} (x y : Word w) : addW (subW x y) y = x := BitVec.sub_add_cancel x y

@[simp] theorem xorW_xorW {w : Width} (x y : Word w) : xorW (xorW x y) y = x := by
  rw [xorW, xorW, BitVec.xor_assoc, BitVec.xor_self, BitVec.xor_zero]

theorem decryptRound_encryptRound {w : Width} (k : Nat → Word w) (i : Nat) (ab : Word w × Word w) :
    decryptRound k i (encryptRound k i ab) = ab := by
  simp [decryptRound, encryptRound, rotrW_rotlW]

theorem encryptRound_decryptRound {w : Width} (k : Nat → Word w) (i : Nat) (ab : Word w × Word w) :
    encryptRound k i (decryptRound k i ab) = ab := by
  simp [decryptRound, encryptRound, rotlW_rotrW]

theorem decryptRounds_encryptRounds {w : Width} (k : Nat → Word w) (r : Nat) (ab : Word w × Word w) :
    decryptRounds k r (encryptRounds k r ab) = ab := by
  induction r with
  | zero => rfl
  | succ r ih => rw [encryptRounds, decryptRounds, decryptRound_encryptRound, ih]

theorem encryptRounds_decryptRounds {w : Width} (k : Nat → Word w) (r : Nat) (ab : Word w × Word w) :
    encryptRounds k r (decryptRounds k r ab) = ab := by
  induction r generalizing ab with
  | zero => rfl
  | succ r ih => rw [encryptRounds, decryptRounds, ih, encryptRound_decryptRound]

theorem decryptBlock_encryptBlock {w : Width} (k : Nat → Word w) (r : Nat) (ab : Word w × Word w) :
    decryptBlock k r (encryptBlock k r ab) = ab := by
  simp [decryptBlock, encryptBlock, decryptRounds_encryptRounds]

theorem encryptBlock_decryptBlock {w : Width} (k : Nat → Word w) (r : Nat) (ab : Word w × Word w) :
    encryptBlock k r (decryptBlock k r ab) = ab := by
  simp [decryptBlock, encryptBlock, encryptRounds_decryptRounds]

/-- A command whose block function undoes that of the command before it leaves the state as it was, but for STATUS. -/
theorem RunsBlock.undoes {i j : Instr} {f g : BlockFn} (hf : RunsBlock i f) (hg : RunsBlock j g)
    (hundo : ∀ w k r ab, g w k r (f w k r ab) = ab) {s : State} (hok : Ref.widthOk s) (hin : Ref.cipherOk s) :
    ∃ t u, exec i s = .next t ∧ exec j t = .next u ∧ u = Ref.ends s := by
  obtain ⟨w, hw, hbits⟩ := readWidth_of_widthOk hok
  have hfirst := hf s w _ (cipherInputs_of_cipherOk hw hbits hin)
  have hsecond := hg _ w _ (cipherInputs_finish_setBlock hw hbits hin (f w (expandedKey w s) s.rounds.toNat (s.block w)))
  rw [block_finish_setBlock, expandedKey_finish_setBlock, hundo] at hsecond
  exact ⟨_, _, hfirst, hsecond, by rw [finish_setBlock_finish_setBlock, setBlock_block hbits hin]; rfl⟩

end Sys2Proof.Machine
end

section
/-! The obligations on the cipher engine (44_cipher_engine.md). -/

namespace Sys2Proof.Proofs

open Sys2Proof Sys2Proof.Machine

/-- Settles O34: the block function of ENCRYPT has the values of R139, and a failing check reports the first error. -/
theorem encryptComputesTheCipher : Obligations.EncryptComputesTheCipher := by
  refine ⟨rfl, fun s => ⟨fun hok hin => ?_, exec_reports_firstError (.inl rfl)⟩⟩
  refine encrypt_runsBlock.exec_eq hok hin fun w hbits => ?_
  rw [encryptBlock_values _ fun i hi => expandedKey_toNat hbits hin hi, values_block hbits hin, hbits]

/-- Settles O35: the block function of DECRYPT has the values of R140, and a failing check reports the first error. -/
theorem decryptComputesTheInverseCipher : Obligations.DecryptComputesTheInverseCipher := by
  refine ⟨rfl, fun s => ⟨fun hok hin => ?_, exec_reports_firstError (.inr rfl)⟩⟩
  refine decrypt_runsBlock.exec_eq hok hin fun w hbits => ?_
  rw [decryptBlock_values _ fun i hi => expandedKey_toNat hbits hin hi, values_block hbits hin, hbits]

/-- Settles O36: each check of the chain comes after those before it succeeded, and a success keeps ERRCODE. -/
theorem cipherInputsAreChecked : Obligations.CipherInputsAreChecked := by
  intro i s hi
  have hfails := fun {e : CmdError} => exec_of_cipherInputs_error (s := s) (e := e) hi
  refine ⟨fun hbad => hfails (cipherInputs_of_not_widthOk hbad),
    fun hok hrounds => hfails (cipherInputs_of_rounds_gt hok hrounds),
    fun hok hrounds hslen => hfails (cipherInputs_of_slen_ne hok hrounds hslen),
    fun hok hrounds hslen hwide => hfails (cipherInputs_of_blockTooWide hok hrounds hslen hwide), fun hok hin => ?_⟩
  obtain ⟨w, hw, hbits⟩ := readWidth_of_widthOk hok
  obtain ⟨a, b, hnext⟩ := exec_writes_ab (cipherInputs_of_cipherOk hw hbits hin) hi
  exact ⟨_, hnext, rfl⟩

/-- Settles O37: round by round each block function undoes the other, and neither command changes what the checks read. -/
theorem decryptInvertsEncrypt : Obligations.DecryptInvertsEncrypt := fun _ hok hin =>
  ⟨encrypt_runsBlock.undoes decrypt_runsBlock (fun _ => decryptBlock_encryptBlock) hok hin,
    decrypt_runsBlock.undoes encrypt_runsBlock (fun _ => encryptBlock_decryptBlock) hok hin⟩

/-- Settles O38: with no rounds R139's algorithm is its two whitening additions. -/
theorem zeroRoundsOnlyWhiten : Obligations.ZeroRoundsOnlyWhiten := by
  intro s hok hin hzero
  have hr : s.rounds.toNat = 0 := by rw [hzero]; rfl
  have hencrypt := (encryptComputesTheCipher.2 s).1 hok hin
  rw [hr] at hencrypt
  exact hencrypt

end Sys2Proof.Proofs
end

section
/-! SUPPORT. Said once: what a step can do to STATUS, IE and LLEN (60_exceptions.md R158, R161 to R163): a completion, a reset, the
acceptance of a command word, a write to CTRL or STATUS, or nothing but OVR raised. -/

namespace Sys2Proof.Machine

/-! ### Keeping and completing -/

/-- t has the IE, DONE, ERRCODE, LLEN and ENG of s, and its OVR unless a dropped write raised it. -/
structure ControlKept (s t : State) : Prop where
  ie : t.ie = s.ie
  done : t.done = s.done
  ovr : s.ovr = true → t.ovr = true
  errcode : t.errcode = s.errcode
  llen : t.llen = s.llen
  eng : t.eng = s.eng

/-- The model's own fields are no part of it. -/
theorem controlKept_of_modelFields (s : State) (draws : Nat) (agenda : List Turn) (out : Option Response) :
    ControlKept s { s with draws := draws, agenda := agenda, busOut := out } := ⟨rfl, rfl, id, rfl, rfl, rfl⟩

/-- t is after a completion from s (40_command_control.md R89): IDLE and DONE, IE and OVR as before, ERRCODE as before or the code
of an error, and LLEN as before or a number of L slots a command uses. -/
structure Completed (s t : State) : Prop where
  ie : t.ie = s.ie
  done : t.done = true
  ovr : t.ovr = s.ovr
  errcode : t.errcode = s.errcode ∨ ∃ e, t.errcode = errorCode e
  llen : t.llen = s.llen ∨ t.llen.toNat ≤ 255
  eng : t.eng = .idle

theorem completed_of_succeeded {s t : State} (h : succeeded s t) : Completed s t := by
  obtain ⟨ht, hllen⟩ := h
  rw [ht]
  exact ⟨rfl, rfl, rfl, .inl rfl, hllen, rfl⟩

theorem completed_of_engineTurn {s t : State} (hbusy : s.eng ≠ .idle) (h : engineTurn s = .next t) : Completed s t := by
  rcases engineTurn_next h with ⟨hidle, -⟩ | ⟨-, ⟨e, rfl⟩ | hok⟩
  · exact absurd hidle hbusy
  · exact ⟨rfl, rfl, rfl, .inr ⟨e, rfl⟩, .inl rfl, rfl⟩
  · exact completed_of_succeeded hok

/-! ### What a step can do -/

/-- What a step from s to t was, as far as STATUS, IE, LLEN and ENG show it. -/
inductive StepEffect (s t : State) : Prop
  /-- The engine completed the pending command (40_command_control.md R89). -/
  | completion (hbusy : s.eng ≠ .idle) (hmoves : Ref.engineMoves s) (hends : Completed s t)
  /-- A hard or soft reset (70_reset_and_hazards.md R170). -/
  | reset (u : Turn) (rest : List Turn) (hagenda : s.agenda = u :: rest) (hresets : u.resets s.config = true)
    (hkept : ControlKept (resetBlock s) t)
  /-- An idle block accepted a command word (40_command_control.md R88). -/
  | acceptance (a : Access) (d : BusWord) (rest : List Turn) (hagenda : s.agenda = .host a :: rest)
    (haddr : a.addr = s.config.base + 0x10) (hkind : a.kind = .write d) (hidle : s.eng = .idle)
    (hkept : ControlKept (accept (CommandWord.ofWord d) s) t)
  /-- A write to CTRL without SRST (10_state.md R22). -/
  | ctrlWrite (a : Access) (d : BusWord) (rest : List Turn) (hagenda : s.agenda = .host a :: rest)
    (haddr : a.addr = s.config.base + 0x08) (hkind : a.kind = .write d)
    (hkept : ControlKept { s with ie := d.getLsbD 0 } t)
  /-- A write to STATUS (10_state.md R23). -/
  | statusWrite (a : Access) (d : BusWord) (rest : List Turn) (hagenda : s.agenda = .host a :: rest)
    (haddr : a.addr = s.config.base + 0x0C) (hkind : a.kind = .write d) (hkept : ControlKept (writeStatus s d) t)
  /-- Any other turn. -/
  | other (hkept : ControlKept s t)

theorem stepEffect_of_engineTurn {s t : State} (rest : List Turn) (hmoves : Ref.engineMoves s)
    (h : engineTurn { s with agenda := rest } = .next t) : StepEffect s t := by
  by_cases hidle : s.eng = .idle
  · rcases engineTurn_next h with ⟨-, rfl⟩ | ⟨hbusy, -⟩
    · exact .other (controlKept_of_modelFields s _ _ _)
    · exact absurd hidle hbusy
  · obtain ⟨hie, hdone, hovr, herrcode, hllen, heng⟩ := completed_of_engineTurn (s := { s with agenda := rest }) hidle h
    exact .completion hidle hmoves ⟨hie, hdone, hovr, herrcode, hllen, heng⟩

/-- A performed write, by the register it names (20_memory.md R64). -/
theorem stepEffect_of_writeReg {s : State} {a : Access} {d : BusWord} {rest : List Turn} (out : Option Response)
    (hagenda : s.agenda = .host a :: rest) (hwf : a.wf s.config = true) (hkind : a.kind = .write d)
    (hopen : (locked (regAt (a.addr - s.config.base)) && isBusy s) = false) :
    StepEffect s { writeReg { s with agenda := rest } (regAt (a.addr - s.config.base)) d with busOut := out } := by
  obtain ⟨hin, -, -⟩ := (wf_iff _ _).mp hwf
  obtain ⟨hbase, -⟩ := (inAperture_iff _ _).mp hin
  obtain ⟨-, -, hctrl, hstatus, hcmd, -⟩ := regAt_control (a.addr - s.config.base)
  rcases writeReg_cases { s with agenda := rest } (regAt (a.addr - s.config.base)) d with ⟨hr, hsrst, hw⟩ | ⟨hr, -, hw⟩ |
    ⟨hr, hw⟩ | ⟨hr, hw⟩ | ⟨-, -, hw⟩ | ⟨-, -, -, hw⟩ <;> rw [hw]
  · exact .reset _ rest hagenda (by simp [Turn.resets, hkind, hwf, hctrl.mp hr, hsrst])
      (controlKept_of_modelFields (resetBlock s) _ _ _)
  · have hoff := hctrl.mp hr
    exact .ctrlWrite a d rest hagenda (by omega) hkind (controlKept_of_modelFields { s with ie := d.getLsbD 0 } _ _ _)
  · have hoff := hstatus.mp hr
    exact .statusWrite a d rest hagenda (by omega) hkind (controlKept_of_modelFields (writeStatus s d) _ _ _)
  · have hoff := hcmd.mp hr
    have hidle : s.eng = .idle := by
      by_contra hbusy
      simp [hr, locked, (isBusy_iff s).mpr hbusy] at hopen
    exact .acceptance a d rest hagenda (by omega) hkind hidle (controlKept_of_modelFields (accept _ s) _ _ _)
  · exact .other ⟨rfl, rfl, id, rfl, rfl, rfl⟩
  · exact .other (controlKept_of_modelFields s _ _ _)

theorem stepEffect_of_hostTurn {s t : State} {a : Access} {rest : List Turn} (hagenda : s.agenda = .host a :: rest)
    (h : hostTurn a { s with agenda := rest } = .next t) : StepEffect s t := by
  rcases hostTurn_cases a { s with agenda := rest } with ⟨-, hturn⟩ | ⟨-, -, hturn⟩ | ⟨-, -, -, hturn⟩ | ⟨-, -, -, hturn⟩ |
    ⟨_, -, -, -, -, hturn⟩ | ⟨d, hwf, hkind, hopen, hturn⟩ <;> rw [hturn] at h <;> cases h
  -- Outside the aperture, and the two kinds of read.
  iterate 3 exact .other (controlKept_of_modelFields s _ _ _)
  · exact .other ⟨rfl, rfl, fun _ => rfl, rfl, rfl, rfl⟩
  · exact stepEffect_of_writeReg _ hagenda hwf hkind hopen

/-- Every step that answers next has one of the effects. -/
theorem step_effect {s t : State} (h : step s = .next t) : StepEffect s t := by
  cases hagenda : s.agenda with
  | nil =>
    rw [step_of_engineMoves (.inl hagenda)] at h
    exact stepEffect_of_engineTurn _ (.inl hagenda) h
  | cons u rest =>
    rw [step_cons hagenda] at h
    cases u with
    | engine => exact stepEffect_of_engineTurn rest (.inr ⟨rest, hagenda⟩) h
    | hardReset =>
      cases h
      exact .reset _ rest hagenda rfl (controlKept_of_modelFields (resetBlock s) _ _ _)
    | host a => exact stepEffect_of_hostTurn hagenda h

/-! ### The invariant -/

theorem ControlKept.inv {s t : State} (h : ControlKept s t) (hinv : s.Inv) : t.Inv := by
  rwa [State.Inv, h.eng, h.done, h.errcode, h.llen]

/-- A completion leaves the engine idle, ERRCODE at most 6 (60_exceptions.md R157) and LLEN at most 255. -/
theorem Completed.inv {s t : State} (h : Completed s t) (hinv : s.Inv) : t.Inv := by
  obtain ⟨-, herr, hllen⟩ := hinv
  refine ⟨fun hbusy => absurd h.eng hbusy, ?_, ?_⟩
  · rcases h.errcode with hsame | ⟨e, hcode⟩
    · rwa [hsame]
    · rw [hcode]; exact errorCode_le e
  · rcases h.llen with hsame | hle
    · rwa [hsame]
    · exact hle

theorem inv_resetBlock (s : State) : (resetBlock s).Inv := ⟨fun hbusy => absurd rfl hbusy, Nat.zero_le _, Nat.zero_le _⟩

theorem inv_accept {s : State} (c : CommandWord) (h : s.Inv) : (accept c s).Inv := by
  obtain ⟨-, -, hllen⟩ := h
  exact ⟨fun _ => ⟨rfl, rfl⟩, Nat.zero_le _, hllen⟩

/-- A write to STATUS sets no bit, so DONE stays 0 while a command is pending. -/
theorem inv_writeStatus {s : State} (d : BusWord) (h : s.Inv) : (writeStatus s d).Inv := by
  obtain ⟨hpending, hbounds⟩ := h
  refine ⟨fun hbusy => ?_, hbounds⟩
  obtain ⟨hdone, herr⟩ := hpending hbusy
  exact ⟨by rw [writeStatus_done, hdone, Bool.false_and], herr⟩

end Sys2Proof.Machine
end

section
/-! SUPPORT. Each check of R159's order fails a command with its own code, and with none failing the command succeeds
(60_exceptions.md R151 to R155, R159). -/

namespace Sys2Proof.Machine

/-- R151: every command but NOP checks the width before anything else. -/
theorem exec_of_not_widthOk {i : Instr} {s : State} (hi : Ref.usesWidth i) (h : ¬ Ref.widthOk s) :
    exec i s = .next (Ref.fails 1 s) := by
  have hwidth := readWidth_of_not_widthOk h
  cases i with
  | nop => exact absurd rfl hi
  | setkey => exact execSetkey_of_not_widthOk h
  | packkey => exact execPackkey_of_not_widthOk h
  | encrypt => exact exec_of_cipherInputs_error (.inl rfl) (cipherInputs_of_not_widthOk h)
  | decrypt => exact exec_of_cipherInputs_error (.inr rfl) (cipherInputs_of_not_widthOk h)
  | magicp => rw [exec, execMagicp, hwidth]; rfl
  | magicq => rw [exec, execMagicq, hwidth]; rfl
  | add => rw [exec, execAdd, hwidth]; rfl
  | sub => rw [exec, execSub, hwidth]; rfl
  | rotl => rw [exec, execRotl, hwidth]; rfl
  | rotr => rw [exec, execRotr, hwidth]; rfl
  | xor => rw [exec, execXor, hwidth]; rfl

/-- R152, the round count. -/
theorem exec_of_rounds_gt {i : Instr} {s : State} (hi : Ref.usesRounds i) (hok : Ref.widthOk s) (h : s.rounds.toNat > 255) :
    exec i s = .next (Ref.fails 2 s) := by
  rcases hi with rfl | hcipher
  · obtain ⟨w, hw, -⟩ := readWidth_of_widthOk hok
    exact execSetkey_of_rounds_gt hw h
  · exact exec_of_cipherInputs_error hcipher (cipherInputs_of_rounds_gt hok h)

/-- R152, the key length. -/
theorem exec_of_keylen_gt {i : Instr} {s : State} (hi : Ref.usesKeyLen i) (hok : Ref.widthOk s) (h : s.keylen.toNat > 255) :
    exec i s = .next (Ref.fails 2 s) := by
  obtain ⟨w, hw, -⟩ := readWidth_of_widthOk hok
  rcases hi with rfl | rfl
  · exact execSetkey_of_keylen_gt hw h
  · exact execPackkey_of_keylen_gt hw h

theorem usesWidth_of_usesRounds {i : Instr} (h : Ref.usesRounds i) : Ref.usesWidth i := by
  rcases h with rfl | rfl | rfl <;> exact nofun

theorem usesWidth_of_usesKeyLen {i : Instr} (h : Ref.usesKeyLen i) : Ref.usesWidth i := by
  rcases h with rfl | rfl <;> exact nofun

/-- A command with an error to report ends with the first one of R159's order. -/
theorem exec_of_firstError_ne_zero {i : Instr} {s : State} (h : Ref.firstError i s ≠ 0) :
    exec i s = .next (Ref.fails (Ref.firstError i s) s) := by
  unfold Ref.firstError at h ⊢
  split_ifs at h ⊢ with hwidth hrounds hkeylen hpack hslen hwide
  case pos => exact exec_of_not_widthOk hwidth.1 hwidth.2
  all_goals rw [not_and, not_not] at hwidth
  case pos => exact exec_of_rounds_gt hrounds.1 (hwidth (usesWidth_of_usesRounds hrounds.1)) hrounds.2
  case pos => exact exec_of_keylen_gt hkeylen.1 (hwidth (usesWidth_of_usesKeyLen hkeylen.1)) hkeylen.2
  all_goals rw [not_and, Nat.not_lt] at hrounds hkeylen
  case pos =>
    obtain ⟨rfl, hpartial⟩ := hpack
    obtain ⟨w, hw, hbits⟩ := readWidth_of_widthOk (hwidth nofun)
    exact execPackkey_of_partial hw (hkeylen (.inr rfl)) (bytes_eq_of_bits hbits ▸ hpartial)
  case pos =>
    obtain ⟨hi, hne⟩ := hslen
    have huses : Ref.usesRounds i := .inr hi
    exact exec_of_cipherInputs_error hi
      (cipherInputs_of_slen_ne (hwidth (usesWidth_of_usesRounds huses)) (hrounds huses) hne)
  case pos =>
    obtain ⟨hi, hblock⟩ := hwide
    have huses : Ref.usesRounds i := .inr hi
    rw [not_and, not_not] at hslen
    exact exec_of_cipherInputs_error hi
      (cipherInputs_of_blockTooWide (hwidth (usesWidth_of_usesRounds huses)) (hrounds huses) (hslen hi) hblock)
  case neg => exact absurd rfl h

/-- A command without an error to report makes its writes and then only ends. -/
theorem exec_of_firstError_eq_zero {i : Instr} {s : State} (h : Ref.firstError i s = 0) :
    ∃ u, exec i s = .next (finish u) ∧ u.errcode = s.errcode := by
  obtain ⟨hwidth, hrounds, hkeylen, hwhole, hcipher⟩ := firstError_eq_zero h
  by_cases hnop : i = .nop
  · subst hnop; exact ⟨s, rfl, rfl⟩
  obtain ⟨w, hw, hbits⟩ := readWidth_of_widthOk (hwidth hnop)
  have hwritesAB := fun hi => exec_writes_ab (cipherInputs_of_cipherOk hw hbits (hcipher hi)) hi
  have hwritesZ := exec_writes_z (i := i) hw
  cases i with
  | nop => exact absurd rfl hnop
  | setkey =>
    obtain ⟨l, -, hnext⟩ := execSetkey_of_checks hw (hrounds (.inl rfl)) (hkeylen (.inl rfl))
    exact ⟨_, hnext, rfl⟩
  | packkey =>
    obtain ⟨words, -, -, hnext⟩ :=
      execPackkey_of_checks hw (hkeylen (.inr rfl)) (bytes_eq_of_bits hbits ▸ hwhole rfl)
    exact ⟨_, hnext, rfl⟩
  | encrypt =>
    obtain ⟨a, b, hnext⟩ := hwritesAB (.inl rfl)
    exact ⟨_, hnext, rfl⟩
  | decrypt =>
    obtain ⟨a, b, hnext⟩ := hwritesAB (.inr rfl)
    exact ⟨_, hnext, rfl⟩
  | magicp | magicq | add | sub | rotl | rotr | xor =>
    obtain ⟨v, hnext⟩ := hwritesZ (by simp)
    exact ⟨_, hnext, rfl⟩

end Sys2Proof.Machine
end

section
/-! The obligations on errors, STATUS and the interrupt (60_exceptions.md), and the invariant. -/

namespace Sys2Proof.Proofs

open Sys2Proof Sys2Proof.Machine

/-- Settles O59: by the step's effect; an acceptance clears DONE and ERRCODE, and errors' codes and LLEN are in bounds. -/
theorem stepKeepsTheInvariant : Obligations.StepKeepsTheInvariant := by
  intro s t hinv hstep
  cases step_effect hstep with
  | completion _ _ hends => exact hends.inv hinv
  | reset _ _ _ _ hkept => exact hkept.inv (inv_resetBlock s)
  | acceptance _ _ _ _ _ _ _ hkept => exact hkept.inv (inv_accept _ hinv)
  | ctrlWrite _ _ _ _ _ _ hkept => exact hkept.inv hinv
  | statusWrite _ d _ _ _ _ hkept => exact hkept.inv (inv_writeStatus d hinv)
  | other hkept => exact hkept.inv hinv

/-- Settles O11: each command makes its checks in R159's order; a word that decodes to no command reaches none of them. -/
theorem firstErrorIsReported : Obligations.FirstErrorIsReported := by
  intro i s
  refine ⟨exec_of_firstError_ne_zero, fun hnone => ?_, fun c heng hill => engineTurn_of_illegalWord heng hill⟩
  obtain ⟨u, hnext, herrcode⟩ := exec_of_firstError_eq_zero hnone
  exact ⟨_, hnext, herrcode, rfl, rfl⟩

/-- Settles O12: a successful completion keeps the ERRCODE 0 of the acceptance, so a nonzero one is a failure's. -/
theorem failedCommandWritesOnlyStatus : Obligations.FailedCommandWritesOnlyStatus := by
  intro s t hbusy hzero hturn hcode
  rcases engineTurn_next hturn with ⟨hidle, -⟩ | ⟨-, ⟨e, rfl⟩ | ⟨ht, -⟩⟩
  · exact absurd hidle hbusy
  · exact failWith_eq_fails e s
  · rw [ht] at hcode; exact absurd hzero hcode

/-- Settles O13: no other effect of a step writes ERRCODE, and an acceptance and a reset clear it. -/
theorem errcodeKeepsItsValue : Obligations.ErrcodeKeepsItsValue := by
  intro s t hstep hne
  cases step_effect hstep with
  | completion hbusy hmoves _ => exact .inl ⟨hbusy, hmoves⟩
  | reset u rest hagenda hresets hkept => exact .inr (.inr ⟨hkept.errcode, u, rest, hagenda, hresets⟩)
  | acceptance a d rest hagenda haddr hkind hidle hkept =>
    exact .inr (.inl ⟨hidle, hkept.errcode, a, d, rest, hagenda, haddr, hkind⟩)
  | ctrlWrite _ _ _ _ _ _ hkept => exact absurd hkept.errcode hne
  | statusWrite _ _ _ _ _ _ hkept => exact absurd hkept.errcode hne
  | other hkept => exact absurd hkept.errcode hne

/-- Settles O14: a reset clears OVR and a write to STATUS clears it by its bit 2; every other effect of a step keeps it. -/
theorem ovrStaysUntilCleared : Obligations.OvrStaysUntilCleared := by
  intro s t hstep hset hclear
  have hlost : t.ovr ≠ true := ne_true_of_eq_false hclear
  cases step_effect hstep with
  | completion _ _ hends => exact absurd (hends.ovr.trans hset) hlost
  | reset u rest hagenda hresets _ => exact ⟨u, rest, hagenda, .inl hresets⟩
  | acceptance _ _ _ _ _ _ _ hkept => exact absurd (hkept.ovr hset) hlost
  | ctrlWrite _ _ _ _ _ _ hkept => exact absurd (hkept.ovr hset) hlost
  | statusWrite a d rest hagenda haddr hkind hkept =>
    refine ⟨_, rest, hagenda, .inr ⟨a, d, rfl, haddr, hkind, ?_⟩⟩
    by_contra hbit
    exact hlost (hkept.ovr (by rw [writeStatus_ovr, hset, Bool.eq_false_of_not_eq_true hbit]; rfl))
  | other hkept => exact absurd (hkept.ovr hset) hlost

/-- Settles O55: apart from a completion nothing sets DONE, and only a write to CTRL sets IE. -/
theorem irqReportsCompletion : Obligations.IrqReportsCompletion := by
  refine ⟨fun s t hstep hlow hhigh => ?_, fun s t hbusy hturn => ?_⟩
  · rw [irq, Bool.and_eq_true] at hhigh
    obtain ⟨hie, hdone⟩ := hhigh
    have hnot : ¬ (s.ie = true ∧ s.done = true) := by rw [← Bool.and_eq_true]; exact ne_true_of_eq_false hlow
    cases step_effect hstep with
    | completion hbusy hmoves _ => exact .inl ⟨hbusy, hmoves⟩
    | reset _ _ _ _ hkept => exact absurd (hkept.done.symm.trans hdone) Bool.false_ne_true
    | acceptance _ _ _ _ _ _ _ hkept => exact absurd (hkept.done.symm.trans hdone) Bool.false_ne_true
    | ctrlWrite a d rest hagenda haddr hkind hkept =>
      exact .inr ⟨a, d, rest, hagenda, haddr, hkind, hkept.ie.symm.trans hie⟩
    | statusWrite _ d _ _ _ _ hkept =>
      have hkeptDone : (s.done && !d.getLsbD 1) = true := hkept.done.symm.trans hdone
      exact absurd ⟨hkept.ie.symm.trans hie, (Bool.and_eq_true_iff.mp hkeptDone).1⟩ hnot
    | other hkept => exact absurd ⟨hkept.ie.symm.trans hie, hkept.done.symm.trans hdone⟩ hnot
  · have hends := completed_of_engineTurn hbusy hturn
    rw [irq, hends.done, Bool.and_true, hends.ie]

end Sys2Proof.Proofs
end

section
/-! SUPPORT. What a reset leaves (70_reset_and_hazards.md R170 to R173), and when a pending command completes (R182). -/

namespace Sys2Proof.Machine

/-! ### Reset -/

/-- The state after reset is what a reset leaves when no draw was taken yet, so what holds of every reset holds of it. -/
theorem exists_resetBlock_eq_reset : ∃ s, resetBlock s = State.reset := ⟨{ State.reset with draws := 0 }, rfl⟩

/-- R170: a write to CTRL with SRST is performed at any time, as a reset that is answered OKAY. -/
theorem hostTurn_writeCtrl_srst (s : State) {d : BusWord} (hsrst : d.getLsbD 1 = true) :
    hostTurn (Ref.writeAt s 0x08 d) s = .next { resetBlock s with busOut := some .writeOkay } := by
  have hturn : hostTurn (Ref.writeAt s 0x08 d) s = .next { writeCtrl s d with busOut := some .writeOkay } :=
    hostTurn_writeAt_performed d (by unfold Ref.offset; decide) rfl
  rw [hturn, writeCtrl, if_pos hsrst]

theorem engineTurn_of_idle {s : State} (h : s.eng = .idle) : engineTurn s = .next s := by
  rw [engineTurn, h]

/-- irq needs IE (10_state.md R38). -/
theorem irq_of_ie_false {s : State} (h : s.ie = false) : irq s = false := by
  rw [irq, h, Bool.false_and]

/-! ### Completion -/

/-- At most n steps from s end a command: they lead to an idle engine with DONE set (40_command_control.md R89). -/
def CompletesWithin (n : Nat) (s : State) : Prop :=
  ∃ k t, k ≤ n ∧ Host.Core.run Sys2Proof.core k s = .next t ∧ t.eng = .idle ∧ t.done = true

theorem completesWithin_of_step {s t : State} {n : Nat} (hstep : step s = .next t) (h : CompletesWithin n t) :
    CompletesWithin (n + 1) s := by
  obtain ⟨k, u, hk, hrun, hend⟩ := h
  exact ⟨k + 1, u, Nat.succ_le_succ hk, (run_core_succ hstep k).trans hrun, hend⟩

/-- A pending command completes in the very step in which the engine moves. -/
theorem completesWithin_of_engineMoves {s : State} (n : Nat) (hbusy : s.eng ≠ .idle) (hmoves : Ref.engineMoves s) :
    CompletesWithin (n + 1) s := by
  obtain ⟨t, hturn⟩ := engineTurn_isNext { s with agenda := s.agenda.tail }
  have hends := completed_of_engineTurn (s := { s with agenda := s.agenda.tail }) hbusy hturn
  exact completesWithin_of_step ((step_of_engineMoves hmoves).trans hturn) ⟨0, t, n.zero_le, rfl, hends.eng, hends.done⟩

/-- R182: a quiet access takes one turn and keeps the command pending; the engine moves at the latest when no turn is left. -/
theorem completesWithin_of_busy {s : State} {agenda : List Turn} (hagenda : s.agenda = agenda) (hbusy : s.eng ≠ .idle)
    (hquiet : ∀ u ∈ agenda, u.legal s.config = true ∧ u.resets s.config = false) :
    CompletesWithin (agenda.length + 1) s := by
  induction agenda generalizing s with
  | nil => exact completesWithin_of_engineMoves 0 hbusy (.inl hagenda)
  | cons u rest ih =>
    obtain ⟨hu, hrest⟩ := List.forall_mem_cons.mp hquiet
    cases u with
    | engine => exact completesWithin_of_engineMoves _ hbusy (.inr ⟨rest, hagenda⟩)
    | hardReset => cases hu.2
    | host a =>
      obtain ⟨h, hturn⟩ := hostTurn_quiet (s := { s with agenda := rest }) hbusy hu
      exact completesWithin_of_step ((step_cons hagenda).trans hturn) (ih rfl hbusy hrest)

end Sys2Proof.Machine
end

section
/-! The obligations on reset and the completion of a pending command (70_reset_and_hazards.md), and the invariant at reset. -/

namespace Sys2Proof.Proofs

open Sys2Proof Sys2Proof.Machine

/-- Settles O10: by induction on the turns still to come. -/
theorem pendingCommandCompletes : Obligations.PendingCommandCompletes := fun _ hbusy hquiet =>
  completesWithin_of_busy rfl hbusy hquiet

/-- Settles O57: the registers are those of every reset, and with no turn to come the idle engine has the turn. -/
theorem resetLeavesTheBlockIdle : Obligations.ResetLeavesTheBlockIdle := by
  obtain ⟨s, hs⟩ := exists_resetBlock_eq_reset
  have hregisters : Ref.atReset State.reset := hs ▸ atReset_resetBlock s s.busOut
  have hcap : capWord Config.rc5core = 0x00FFFF1F := by decide
  refine ⟨hregisters, rfl, hcap, irq_of_ie_false rfl, ?_⟩
  rw [step_nil rfl, engineTurn_of_idle rfl]

/-- Settles O58: both are `resetBlock`, whatever the engine does; the write only adds its response. -/
theorem resetDiscardsThePendingCommand : Obligations.ResetDiscardsThePendingCommand := fun s _ hsrst =>
  ⟨resetBlock s, _, rfl, hostTurn_writeCtrl_srst s hsrst, rfl, atReset_resetBlock s s.busOut, resetBlock_config s,
    resetBlock_agenda s, irq_of_ie_false (resetBlock_ie s), engineTurn_of_idle (resetBlock_eng s)⟩

/-- Settles O60: the state after reset is one that a reset leaves. -/
theorem resetMeetsTheInvariant : Obligations.ResetMeetsTheInvariant := by
  obtain ⟨s, hs⟩ := exists_resetBlock_eq_reset
  rw [Obligations.ResetMeetsTheInvariant, ← hs]
  exact inv_resetBlock s

end Sys2Proof.Proofs
end
